-- ==== Sys2Proof/Word.lean ====
section
/-! DEFINITION. The word types of the framer: a byte (spec/00_scope.md section 5) and the 16-bit upstream
field (spec/40_codec.md rule R101). Every quantity is unsigned. -/

namespace Sys2Proof

/-- A byte on a wire or in a buffer; bit 0 is the least significant bit (spec/00_scope.md section 5). -/
abbrev Byte := BitVec 8

/-- An upstream address or CV field, and the value of a host access (rule R101; log entry 5). -/
abbrev Word16 := BitVec 16

end Sys2Proof
end

