-- ==== Sys2Proof/Config.lean ====
section
/-! DEFINITION. The configuration record `Cfg` of spec/00_scope.md section 4: every byte value that the source
does not give. It is plain data, so a state can hold it, and the rules are stated for every well-formed one
(rule R1; the check is `Cfg.wellFormed` of Machine/Tables.lean, the default record `cfgDefault` stands there too). -/

namespace Sys2Proof

/-- The five cursor modes of rule R173. -/
inductive CursorMode where
  | home | clear | cursorOff | cursorOn | dispRight
deriving DecidableEq, Repr

/-- Class FIXED (rule R125): the body constants `K0..K3` and whether `RSP_OK` is sent at once. -/
structure FixedParams where
  k0 : Byte
  k1 : Byte
  k2 : Byte
  k3 : Byte
  imm : Bool
deriving DecidableEq, Repr

/-- Class CV (rules R128, R129): the first frame byte, the base of the high address byte, and `imm`. -/
structure CvParams where
  busop : Byte
  base : Byte
  imm : Bool
deriving DecidableEq, Repr

/-- Class OPS (rules R130, R131): the last two body bytes of the addressing frame, and the payload frame's `busop`, `base`. -/
structure OpsParams where
  kOp : Byte
  kData : Byte
  busop : Byte
  base : Byte
  imm : Bool
deriving DecidableEq, Repr

/-- A translator class with the parameters of the opcode it is assigned to (spec/00_scope.md section 4.2). One
alternative per upstream row of the unit table, so that the class also says the packet's format (rule R62):
`has_data` and `addr16` of the spec's FIXED and CV classes are the alternative's own. -/
inductive UpClass where
  | nop
  | nopCrlf
  | status (p : FixedParams)
  | runMacro (p : FixedParams)
  | progEnter (p : FixedParams)
  | progExit (p : FixedParams)
  | cvProgPaged (p : CvParams)
  | cvReadPaged (p : CvParams)
  | locoCtrl (imm : Bool)
  | regProg (p : CvParams)
  | regRead (p : CvParams)
  | cvProgDirect (p : CvParams)
  | cvReadDirect (p : CvParams)
  | fwVer (ver0 ver1 ver2 : Byte)
  | accCtrl (imm : Bool)
  | opsLoco (p : OpsParams)
  | opsAcc (p : OpsParams)
  | unsupported
deriving DecidableEq, Repr

/-- One listed opcode of the upstream table: its total packet length and its class. -/
structure UpEntry where
  opcode : Byte
  len : BitVec 4
  cls : UpClass
deriving DecidableEq, Repr

/-- `Cfg.up`: the inclusive opcode range and the listed opcodes; an opcode of the range that is not listed has
length 1 and class UNSUPPORTED (spec/00_scope.md section 4.2). -/
structure UpCfg where
  base : Byte
  high : Byte
  table : List UpEntry
deriving DecidableEq, Repr

/-- `Cfg.rsp`: the upstream response bytes (spec/00_scope.md section 4.3). -/
structure RspCfg where
  ok : Byte
  notSupported : Byte
  addrRange : Byte
  cabOpRange : Byte
  cvRange : Byte
  byteCount : Byte
  eol0 : Byte
  eol1 : Byte
deriving DecidableEq, Repr

/-- The classes of addressed inbound commands (rules R66, R170); `noClass` is the class NONE of rule R177. -/
inductive AddrClass where
  | lcdText
  | cursorMove
  | tty (advance : Bool)
  | cursorMode (m : CursorMode)
  | cabTypeQuery
  | noClass
deriving DecidableEq, Repr

/-- The classes of broadcast inbound commands (rules R66, R170). The two modes have separate tables, so a class
of one mode cannot be selected in the other. -/
inductive BcastClass where
  | fcTime
  | fcRate
  | noClass
deriving DecidableEq, Repr

/-- One listed opcode of the addressed inbound table. -/
structure AddrEntry where
  opcode : Byte
  len : BitVec 4
  cls : AddrClass
deriving DecidableEq, Repr

/-- One listed opcode of the broadcast inbound table. -/
structure BcastEntry where
  opcode : Byte
  len : BitVec 4
  cls : BcastClass
deriving DecidableEq, Repr

/-- One position byte whose column and row differ from the default decoding of rule R176. That `cursor_decode` gives a
column and a row of 8 bits each is a DESIGN CHOICE: the spec states no width for them (log entry 19). -/
structure CursorEntry where
  pos : Byte
  col : Byte
  row : Byte
deriving DecidableEq, Repr

/-- `Cfg.ib`: the two inbound tables (an opcode that is not listed has length 0, the sentinel), the first buffer
index that is ASCII-adjusted, the field positions of the fast-clock time frame, and `cursor_decode` as its
differences from the default decoding (spec/00_scope.md section 4.4; log entry 4). -/
structure IbCfg where
  addressed : List AddrEntry
  broadcast : List BcastEntry
  asciiFrom : Nat
  fcHPos : Nat
  fcMPos : Nat
  fcModePos : Nat
  cursorTable : List CursorEntry
deriving DecidableEq, Repr

/-- `Cfg.dev`: the cab-type codes and the "no key" code (spec/00_scope.md section 4.5). -/
structure DevCfg where
  cabTypeLcd : Byte
  cabTypeNoLcd : Byte
  cabTypeSmart : Byte
  cabTypeAiu : Byte
  cabTypeReserved : Byte
  cabTypeBridge1 : Byte
  cabTypeBridge2 : Byte
  cabTypeUnknown : Byte
  noKey : BitVec 7
deriving DecidableEq, Repr

/-- The configuration record (spec/00_scope.md section 4). -/
structure Cfg where
  up : UpCfg
  rsp : RspCfg
  ib : IbCfg
  dev : DevCfg
deriving DecidableEq, Repr

end Sys2Proof
end

