-- ==== Sys2Proof/Syntax.lean ====
section
/-! DEFINITION. The units the framer consumes (what stands for its instructions, decision D2): one constructor
per row of spec/opcode_table.json. Every upstream and inbound unit carries its leading byte `opc`, which selects
the parameters of its class. -/

namespace Sys2Proof

/-- The poll/command state `cab_state` (rule R15). -/
inductive CabState where
  | unknown | pingOther | execMyCmd | execBroadcastCmd
deriving DecidableEq, Repr

/-- Which inbound table is in force (rule R70). -/
inductive IbMode where
  | addressed | broadcast
deriving DecidableEq, Repr

/-- A host port access to one register: `CFG_READ` or `CFG_WRITE` with its value (rules R201, R202). -/
inductive HostAccess where
  | read
  | write (v : Word16)
deriving DecidableEq, Repr

/-- The wire units and host accesses, one per row of spec/opcode_table.json, in the table's order. -/
inductive Instr where
  -- cab-bus poll byte
  | poll (a : BitVec 6)
  -- bus-master reply frames: the bytes after the lead byte
  | replyD8 (r1 r2 : Byte)
  | replyD9 (r1 r2 r3 : Byte)
  | replyDA (r1 r2 r3 r4 r5 r6 : Byte)
  | replyNone (b : Byte)
  -- upstream command packets
  | upNop (opc : Byte)
  | upNopCrlf (opc : Byte)
  | upStatus (opc data : Byte)
  | upMacro (opc data : Byte)
  | upProgEnter (opc : Byte)
  | upProgExit (opc : Byte)
  | upCvProgPaged (opc : Byte) (addr : Word16) (data : Byte)
  | upCvReadPaged (opc : Byte) (addr : Word16)
  | upLocoCtrl (opc : Byte) (addr : Word16) (op data : Byte)
  | upRegProg (opc reg data : Byte)
  | upRegRead (opc reg : Byte)
  | upCvProgDirect (opc : Byte) (addr : Word16) (data : Byte)
  | upCvReadDirect (opc : Byte) (addr : Word16)
  | upFwVer (opc : Byte)
  | upAccCtrl (opc : Byte) (addr : Word16) (op data : Byte)
  | upOpsLoco (opc : Byte) (addr cv : Word16) (data : Byte)
  | upOpsAcc (opc : Byte) (addr cv : Word16) (data : Byte)
  | upUnsupported (opc : Byte) (rest : List Byte)
  | upOutOfRange (b : Byte)
  -- inbound cab-bus command frames: the data bytes AS STORED (rule R156)
  | ibLcdText0 (opc : Byte) (text : List Byte)
  | ibLcdText1 (opc : Byte) (text : List Byte)
  | ibLcdText2 (opc : Byte) (text : List Byte)
  | ibLcdText3 (opc : Byte) (text : List Byte)
  | ibCursorMove (opc p : Byte)
  | ibTtyAdv (opc ch : Byte)
  | ibTtyNoadv (opc ch : Byte)
  | ibHome (opc : Byte)
  | ibClear (opc : Byte)
  | ibCursorOff (opc : Byte)
  | ibCursorOn (opc : Byte)
  | ibDispRight (opc : Byte)
  | ibCabTypeQuery (opc : Byte)
  | ibFcTime (opc : Byte) (text : List Byte)
  | ibFcRate (opc r : Byte)
  | ibUnknown (m : IbMode) (b : Byte)
  | ibIgnored (b : Byte)
  -- host port accesses
  | cfgCabType (a : HostAccess)
  | cfgCabAddr (a : HostAccess)
  | cfgSpeed (a : HostAccess)
  | cfgKey (a : HostAccess)
  | cfgAiu (a : HostAccess)
  | cfgAiuBit0 (a : HostAccess)
  | cfgAiuBit1 (a : HostAccess)
  | cfgAiuBit2 (a : HostAccess)
  | cfgAiuBit3 (a : HostAccess)
  | cfgAiuBit4 (a : HostAccess)
  | cfgAiuBit5 (a : HostAccess)
  | cfgAiuBit6 (a : HostAccess)
  | cfgAiuBit7 (a : HostAccess)
  | cfgAiuBit8 (a : HostAccess)
  | cfgAiuBit9 (a : HostAccess)
  | cfgAiuBit10 (a : HostAccess)
  | cfgAiuBit11 (a : HostAccess)
  | cfgAiuBit12 (a : HostAccess)
  | cfgAiuBit13 (a : HostAccess)
  | cfgCabState (a : HostAccess)
  | cfgRead (reg : Byte)
  | cfgWrite (reg : Byte) (v : Word16)
  -- the reset port
  | reset
deriving DecidableEq, Repr

end Sys2Proof
end

