-- ==== Sys2Proof/Machine/Tables.lean ====
section
/-! DEFINITION. The structural constants (spec/00_scope.md section 4.1), the default configuration (sections 4.2
to 4.5), the lookup tables (spec/30_encoding.md rules R69, R70) and the well-formedness of a configuration (rule
R1). -/

namespace Sys2Proof

/-! ### Structural constants (basis S: stated by the source) -/

/-- `UA_BUF_SIZE`. -/
def uaBufSize : Nat := 11
/-- `IB_BUF_SIZE`. -/
def ibBufSize : Nat := 9
/-- `RA_BUF_SIZE`. -/
def raBufSize : Nat := 7
/-- `FRAME_SIZE`. -/
def frameSize : Nat := 5
/-- `BUS_SHORT_ADDR_OPC`. -/
def busShortAddrOpc : Byte := 0x4F
/-- `SHORT_ADDR_MAX`. -/
def shortAddrMax : Word16 := 127
/-- `LOCO_ADDR_MAX`. -/
def locoAddrMax : Word16 := 9999
/-- `ACC_ADDR_MAX`. -/
def accAddrMax : Word16 := 2044
/-- `CV_ADDR_MAX`. -/
def cvAddrMax : Word16 := 0x0FFF
/-- `BROADCAST_ADDR`. -/
def broadcastAddr : BitVec 6 := 0
/-- `SPEED_UNUSED`, the reset value of `speed` (rule R22). -/
def speedUnused : BitVec 7 := 127
/-- The number of host port registers; numbers from here on are unmapped (rule R200). -/
def hostRegCount : Nat := 20

/-- `RA_SIZE`: the declared size of a reply by its lead byte; `none` for a byte that is no lead byte (rules R67, R190). -/
def raSizeOf (b : Byte) : Option (BitVec 3) :=
  if b = 0xD8 then some 3
  else if b = 0xD9 then some 4
  else if b = 0xDA then some 7
  else none

/-- `is_poll(b) = (b[7:6] == 0b10)` (rule R64). -/
def isPoll (b : Byte) : Bool := b.extractLsb' 6 2 == 0b10

/-- `poll_addr(b) = b[5:0]` (rule R64). -/
def pollAddr (b : Byte) : BitVec 6 := b.extractLsb' 0 6

/-- `POLL(a) = 0x80 | a` (rule R64). -/
def pollByte (a : BitVec 6) : Byte := 0x80 ||| a.setWidth 8

/-! ### The default configuration `CFG_DEFAULT` -/

/-- `CFG_DEFAULT.up` (section 4.2; the byte values are of basis G or C: log entry 2). -/
def upDefault : UpCfg where
  base := 0x80
  high := 0xAF
  table :=
    [ ⟨0x80, 1, .nop⟩,
      ⟨0x8C, 1, .nopCrlf⟩,
      ⟨0x9B, 2, .status ⟨0x4E, 0x10, 0x00, 0x00, false⟩⟩,
      ⟨0x9C, 2, .runMacro ⟨0x4E, 0x11, 0x00, 0x00, false⟩⟩,
      ⟨0x9E, 1, .progEnter ⟨0x4E, 0x12, 0x00, 0x00, true⟩⟩,
      ⟨0x9F, 1, .progExit ⟨0x4E, 0x13, 0x00, 0x00, true⟩⟩,
      ⟨0xA0, 4, .cvProgPaged ⟨0x40, 0x00, false⟩⟩,
      ⟨0xA1, 3, .cvReadPaged ⟨0x41, 0x00, false⟩⟩,
      ⟨0xA2, 5, .locoCtrl true⟩,
      ⟨0xA6, 3, .regProg ⟨0x42, 0x00, false⟩⟩,
      ⟨0xA7, 2, .regRead ⟨0x43, 0x00, false⟩⟩,
      ⟨0xA8, 4, .cvProgDirect ⟨0x44, 0x00, false⟩⟩,
      ⟨0xA9, 3, .cvReadDirect ⟨0x45, 0x00, false⟩⟩,
      ⟨0xAA, 1, .fwVer 0x07 0x03 0x00⟩,
      ⟨0xAD, 5, .accCtrl true⟩,
      ⟨0xAE, 6, .opsLoco ⟨0x00, 0x00, 0x46, 0x00, true⟩⟩,
      ⟨0xAF, 6, .opsAcc ⟨0x00, 0x00, 0x47, 0x00, true⟩⟩ ]

/-- `CFG_DEFAULT.rsp` (section 4.3). -/
def rspDefault : RspCfg where
  ok := 0x21
  notSupported := 0x30
  addrRange := 0x31
  cabOpRange := 0x32
  cvRange := 0x33
  byteCount := 0x34
  eol0 := 0x0D
  eol1 := 0x0A

/-- `CFG_DEFAULT.ib` (section 4.4). -/
def ibDefault : IbCfg where
  addressed :=
    [ ⟨0xC0, 9, .lcdText⟩, ⟨0xC1, 9, .lcdText⟩, ⟨0xC2, 9, .lcdText⟩, ⟨0xC3, 9, .lcdText⟩,
      ⟨0xC8, 2, .cursorMove⟩,
      ⟨0xC9, 2, .tty true⟩,
      ⟨0xCA, 2, .tty false⟩,
      ⟨0xCE, 1, .cursorMode .home⟩,
      ⟨0xCF, 1, .cursorMode .clear⟩,
      ⟨0xD0, 1, .cursorMode .cursorOff⟩,
      ⟨0xD1, 1, .cursorMode .cursorOn⟩,
      ⟨0xD2, 1, .cabTypeQuery⟩,
      ⟨0xD3, 1, .cursorMode .dispRight⟩ ]
  broadcast := [ ⟨0xC1, 9, .fcTime⟩, ⟨0xD4, 2, .fcRate⟩ ]
  asciiFrom := 2
  fcHPos := 2
  fcMPos := 5
  fcModePos := 7
  cursorTable := []

/-- `CFG_DEFAULT.dev` (section 4.5). -/
def devDefault : DevCfg where
  cabTypeLcd := 0x61
  cabTypeNoLcd := 0x62
  cabTypeSmart := 0x63
  cabTypeAiu := 0x64
  cabTypeReserved := 0x65
  cabTypeBridge1 := 0x66
  cabTypeBridge2 := 0x67
  cabTypeUnknown := 0x00
  noKey := 0x7D

/-- `CFG_DEFAULT` (section 4): the configuration of the machine after `State.reset`. -/
def cfgDefault : Cfg where
  up := upDefault
  rsp := rspDefault
  ib := ibDefault
  dev := devDefault

/-! ### The lookup tables -/

/-- Is `b` in the upstream opcode range `[base, high]` (rule R69)? -/
def upInRange (u : UpCfg) (b : Byte) : Bool := decide (u.base ≤ b) && decide (b ≤ u.high)

/-- The listed entry of an upstream opcode. -/
def upEntry (u : UpCfg) (b : Byte) : Option UpEntry := u.table.find? (fun e => e.opcode == b)

/-- `UPLEN(b)` (rule R69): the total packet length, or the sentinel 0 outside the range. -/
def upLen (u : UpCfg) (b : Byte) : BitVec 4 :=
  if upInRange u b then
    match upEntry u b with
    | some e => e.len
    | none => 1
  else 0

/-- The length the assembler latches on a first byte (rule R111): an out-of-range byte is a packet of one byte. -/
def upPacketLen (u : UpCfg) (b : Byte) : BitVec 4 := if upLen u b = 0 then 1 else upLen u b

/-- `Cfg.up.class` on an opcode of the range (section 4.2). -/
def upClassOf (u : UpCfg) (b : Byte) : UpClass :=
  match upEntry u b with
  | some e => e.cls
  | none => .unsupported

/-- The listed entry of an addressed inbound opcode. -/
def addrEntry (c : IbCfg) (b : Byte) : Option AddrEntry := c.addressed.find? (fun e => e.opcode == b)

/-- The listed entry of a broadcast inbound opcode. -/
def bcastEntry (c : IbCfg) (b : Byte) : Option BcastEntry := c.broadcast.find? (fun e => e.opcode == b)

/-- `IBLEN(mode, b)` (rule R70): the total frame length, or the sentinel 0. -/
def ibLen (c : IbCfg) (m : IbMode) (b : Byte) : BitVec 4 :=
  match m with
  | .addressed =>
    match addrEntry c b with
    | some e => e.len
    | none => 0
  | .broadcast =>
    match bcastEntry c b with
    | some e => e.len
    | none => 0

/-- `Cfg.ib.class(ADDRESSED, b)`. -/
def addrClassOf (c : IbCfg) (b : Byte) : AddrClass :=
  match addrEntry c b with
  | some e => e.cls
  | none => .noClass

/-- `Cfg.ib.class(BROADCAST, b)`. -/
def bcastClassOf (c : IbCfg) (b : Byte) : BcastClass :=
  match bcastEntry c b with
  | some e => e.cls
  | none => .noClass

/-- `Cfg.ib.cursor_decode(p)`, as (col, row) (rule R176): a listed difference, else `(p[3:0], p[5:4])`. DESIGN CHOICE:
col and row are 8 bits wide; the spec states no width (log entry 19). -/
def cursorDecode (c : IbCfg) (p : Byte) : Byte × Byte :=
  match c.cursorTable.find? (fun e => e.pos == p) with
  | some e => (e.col, e.row)
  | none => ((p.extractLsb' 0 4).setWidth 8, (p.extractLsb' 4 2).setWidth 8)

/-- The class parameters of a FIXED unit; zeros for a class that is not FIXED, which the decoder never gives to a
FIXED unit. -/
def UpClass.fixedParams : UpClass → FixedParams
  | .status p | .runMacro p | .progEnter p | .progExit p => p
  | _ => ⟨0, 0, 0, 0, false⟩

/-- The class parameters of a CV unit; zeros for a class that is not CV. -/
def UpClass.cvParams : UpClass → CvParams
  | .cvProgPaged p | .cvReadPaged p | .regProg p | .regRead p | .cvProgDirect p | .cvReadDirect p => p
  | _ => ⟨0, 0, false⟩

/-- The class parameters of an OPS unit; zeros for a class that is not OPS. -/
def UpClass.opsParams : UpClass → OpsParams
  | .opsLoco p | .opsAcc p => p
  | _ => ⟨0, 0, 0, 0, false⟩

/-- The parameter `imm` of an ADDR_CTRL unit; false for a class that is not ADDR_CTRL. -/
def UpClass.addrImm : UpClass → Bool
  | .locoCtrl imm | .accCtrl imm => imm
  | _ => false

/-- The version bytes of a FW_VER unit; zeros for a class that is not FW_VER. -/
def UpClass.verBytes : UpClass → List Byte
  | .fwVer v0 v1 v2 => [v0, v1, v2]
  | _ => [0, 0, 0]

/-! ### Well-formedness of a configuration (rule R1) -/

/-- The packet length of a class format (rule R62); `none` for UNSUPPORTED, whose length is free. -/
def UpClass.formatLen : UpClass → Option (BitVec 4)
  | .nop | .nopCrlf | .progEnter _ | .progExit _ | .fwVer _ _ _ => some 1
  | .status _ | .runMacro _ | .regRead _ => some 2
  | .cvReadPaged _ | .cvReadDirect _ | .regProg _ => some 3
  | .cvProgPaged _ | .cvProgDirect _ => some 4
  | .locoCtrl _ | .accCtrl _ => some 5
  | .opsLoco _ | .opsAcc _ => some 6
  | .unsupported => none

/-- The CV base of a class, if it has one (rule R1 (d)). -/
def UpClass.cvBase : UpClass → Option Byte
  | .cvProgPaged p | .cvReadPaged p | .regProg p | .regRead p | .cvProgDirect p | .cvReadDirect p => some p.base
  | .opsLoco p | .opsAcc p => some p.base
  | _ => none

/-- Rule R1 (a), (b), (d) for one listed upstream opcode. -/
def UpEntry.ok (e : UpEntry) : Bool :=
  decide (1 ≤ e.len) && decide (e.len ≤ 11)
    && (match e.cls.formatLen with
        | some n => e.len == n
        | none => true)
    && (match e.cls.cvBase with
        | some b => decide (b.toNat + 63 ≤ 255)
        | none => true)

/-- The frame length of an addressed class (rule R66); `none` for the class NONE, whose length is free. -/
def AddrClass.frameLen : AddrClass → Option (BitVec 4)
  | .lcdText => some 9
  | .cursorMove | .tty _ => some 2
  | .cursorMode _ | .cabTypeQuery => some 1
  | .noClass => none

/-- The frame length of a broadcast class (rule R66). -/
def BcastClass.frameLen : BcastClass → Option (BitVec 4)
  | .fcTime => some 9
  | .fcRate => some 2
  | .noClass => none

/-- Rule R1 (c) for a listed inbound opcode, its length, and the frame length its class asks for. -/
def ibEntryOk (opcode : Byte) (len : BitVec 4) (frameLen : Option (BitVec 4)) : Bool :=
  decide (len ≤ 9)
    && (!isPoll opcode || len == 0)
    && (match frameLen with
        | some n => len == n
        | none => true)

/-- Are the elements of a list pairwise distinct? -/
def allDistinct : List Byte → Bool
  | [] => true
  | b :: rest => !(rest.contains b) && allDistinct rest

/-- Rule R1 (a), (b), (d). -/
def UpCfg.ok (u : UpCfg) : Bool := decide (u.base ≤ u.high) && u.table.all UpEntry.ok

/-- Rule R1 (e): the six status bytes are pairwise distinct. -/
def RspCfg.distinct (r : RspCfg) : Bool :=
  allDistinct [r.ok, r.notSupported, r.addrRange, r.cabOpRange, r.cvRange, r.byteCount]

/-- Rule R1 (c), the positions' conditions of rule R178, and that the opcode is stored as received (rule R16; log
entry 6). -/
def IbCfg.ok (c : IbCfg) : Bool :=
  c.addressed.all (fun e => ibEntryOk e.opcode e.len e.cls.frameLen)
    && c.broadcast.all (fun e => ibEntryOk e.opcode e.len e.cls.frameLen)
    && decide (1 ≤ c.asciiFrom)
    && decide (c.asciiFrom ≤ c.fcHPos) && decide (c.fcHPos + 1 ≤ 8)
    && decide (c.asciiFrom ≤ c.fcMPos) && decide (c.fcMPos + 1 ≤ 8)
    && decide (c.asciiFrom ≤ c.fcModePos) && decide (c.fcModePos ≤ 8)

/-- Rule R1 (f), (g). -/
def DevCfg.ok (d : DevCfg) : Bool :=
  allDistinct [d.cabTypeLcd, d.cabTypeNoLcd, d.cabTypeSmart, d.cabTypeAiu, d.cabTypeReserved, d.cabTypeBridge1,
      d.cabTypeBridge2, d.cabTypeUnknown]
    && decide (d.noKey ≤ 126)

/-- Rule R1: the configuration is well-formed. A step refuses to run any other. -/
def Cfg.wellFormed (c : Cfg) : Bool := c.up.ok && c.rsp.distinct && c.ib.ok && c.dev.ok

end Sys2Proof
end

