-- ==== Sys2Proof/Machine/Codec.lean ====
section
/-! DEFINITION. The checksum generator and field codec (spec/40_codec.md rules R90 to R100) and the 16-bit field
order of rule R43 (a). Every function is combinational. -/

namespace Sys2Proof

/-- `{hi, lo}`: a 16-bit upstream field from its two bytes, high byte first (rule R43 (a)). -/
def word16 (hi lo : Byte) : Word16 := hi ++ lo

/-- `hi(v) = v[15:8]` (rule R74). -/
def hi8 (v : Word16) : Byte := v.extractLsb' 8 8

/-- `lo(v) = v[7:0]` (rule R74). -/
def lo8 (v : Word16) : Byte := v.extractLsb' 0 8

/-- The XOR checksum over a 4-byte body (rule R90). -/
def xor4 (f0 f1 f2 f3 : Byte) : Byte := f0 ^^^ f1 ^^^ f2 ^^^ f3

/-- `LO7(v) = v & 0x7F` (rule R91). -/
def lo7 (v : Word16) : Byte := (v &&& 0x7F).setWidth 8

/-- `HI7(v) = (v >> 7) & 0x7F` (rule R91). -/
def hi7 (v : Word16) : Byte := ((v >>> 7) &&& 0x7F).setWidth 8

/-- `JOIN14(h, l) = ((h & 0x7F) << 7) | (l & 0x7F)` (rule R91). -/
def join14 (h l : Byte) : BitVec 14 := (((h &&& 0x7F).setWidth 14) <<< 7) ||| ((l &&& 0x7F).setWidth 14)

/-- `ADDRENC(addr)` (rule R92): the short form up to address 127, else the long form. -/
def addrEnc (addr : Word16) : Byte × Byte :=
  if addr ≤ shortAddrMax then (busShortAddrOpc, addr.setWidth 8) else (hi7 addr, lo7 addr)

/-- `CVPACK(base, addr, data)` (rule R93), as (a_h, a_l, d7). -/
def cvPack (base : Byte) (addr : Word16) (data : Byte) : Byte × Byte × Byte :=
  (base + (addr >>> 6).setWidth 8,
   ((addr <<< 1) &&& 0x7F).setWidth 8 + (data >>> 7),
   data &&& 0x7F)

/-- `CVUNPACK(base, a_h, a_l, d7)` (rule R94), as (addr, data). The framer never executes it. -/
def cvUnpack (base aH aL d7 : Byte) : Word16 × Byte :=
  (((aH - base).setWidth 16 <<< 6) ||| (aL >>> 1).setWidth 16,
   ((aL &&& 1) <<< 7) ||| d7)

/-- `ASCII_ADJ(b)` (rule R95): bit 7 is stripped, and bit 6 too when bit 5 is set. -/
def asciiAdj (b : Byte) : Byte :=
  let v := b &&& 0x7F
  if v.getLsbD 5 then v &&& 0x3F else v

/-- A reply value of 2 bits of one byte and 6 bits of the next (rules R96 to R98). -/
def unp26 (x y : Byte) : Byte := ((x &&& 0x03) <<< 6) ||| (y &&& 0x3F)

/-- A reply value of 4 bits of one byte and 4 bits of the next (rules R97, R98). -/
def unp44 (x y : Byte) : Byte := ((x &&& 0x0F) <<< 4) ||| ((y >>> 2) &&& 0x0F)

/-- A reply value of 6 bits of one byte and 2 bits of the next (rule R98). -/
def unp62 (x y : Byte) : Byte := ((x &&& 0x3F) <<< 2) ||| ((y >>> 4) &&& 0x03)

/-- `UNP_D8` (rule R96). -/
def unpD8 (r1 r2 : Byte) : List Byte := [unp26 r1 r2]

/-- `UNP_D9` (rule R97). -/
def unpD9 (r1 r2 r3 : Byte) : List Byte := [unp44 r1 r2, unp26 r2 r3]

/-- `UNP_DA` (rule R98). -/
def unpDA (r1 r2 r3 r4 r5 r6 : Byte) : List Byte := [unp26 r1 r2, unp62 r3 r4, unp44 r4 r5, unp26 r5 r6]

/-- `STATUS(r) = r[1][5:4]` (rule R99, conflict C2). -/
def replyStatus (r1 : Byte) : BitVec 2 := r1.extractLsb' 4 2

/-- `STATUS_MAP(s)` (rule R99), with the entry for 4 that the 2-bit field cannot select. -/
def statusMap (r : RspCfg) (s : Fin 5) : Byte :=
  match s with
  | 0 => r.ok
  | 1 => r.addrRange
  | 2 => r.cabOpRange
  | 3 => r.cvRange
  | 4 => r.byteCount

/-- `STATUS_MAP(STATUS(r))` (rules R194 to R196). -/
def replyCode (r : RspCfg) (r1 : Byte) : Byte :=
  statusMap r ⟨(replyStatus r1).toNat, Nat.lt_of_lt_of_le (replyStatus r1).isLt (by decide)⟩

/-- `DIG(c)` (rule R100): a character that is no digit counts as 0. -/
def dig (c : Byte) : Byte := if 0x30 ≤ c ∧ c ≤ 0x39 then c - 0x30 else 0

/-- `DEC2(c1, c0) = 10 * DIG(c1) + DIG(c0)` (rule R100). -/
def dec2 (c1 c0 : Byte) : Byte := 10 * dig c1 + dig c0

/-- What is stored at index `i` of the inbound buffer for the wire byte `b` (rule R156). -/
def storedByte (c : IbCfg) (i : Nat) (b : Byte) : Byte := if c.asciiFrom ≤ i then asciiAdj b else b

end Sys2Proof
end

