-- ==== Sys2Proof/WellFormed.lean ====
section
/-! DEFINITION. Well-formed units under a configuration: exactly the units the decoder can give. -/

namespace Sys2Proof

/-- Is `b` an opcode of the upstream range whose class is accepted by `p`? -/
def upOpcode (c : Cfg) (b : Byte) (p : UpClass → Bool) : Bool := upInRange c.up b && p (upClassOf c.up b)

/-- Is `v` a byte that the inbound buffer can hold at index `i`: an adjusted byte from `ascii_from` on (rule R156),
and before that a byte that is no poll byte (rule R66)? -/
def storableAt (c : IbCfg) (i : Nat) (v : Byte) : Bool :=
  if c.asciiFrom ≤ i then asciiAdj v == v else !isPoll v

/-- Can the inbound buffer hold these bytes from index `i` on? -/
def storableFrom (c : IbCfg) : Nat → List Byte → Bool
  | _, [] => true
  | i, v :: rest => storableAt c i v && storableFrom c (i + 1) rest

/-- An addressed inbound unit: a non-poll opcode with this frame length, a class accepted by `p`, storable data. -/
def addrUnit (c : IbCfg) (b : Byte) (data : List Byte) (p : AddrClass → Bool) : Bool :=
  !isPoll b && (ibLen c .addressed b).toNat == data.length + 1 && p (addrClassOf c b) && storableFrom c 1 data

/-- A broadcast inbound unit. -/
def bcastUnit (c : IbCfg) (b : Byte) (data : List Byte) (p : BcastClass → Bool) : Bool :=
  !isPoll b && (ibLen c .broadcast b).toNat == data.length + 1 && p (bcastClassOf c b) && storableFrom c 1 data

/-- The position bits `p = q[0][1:0]` of a text opcode (rule R172). -/
def lcdPos (b : Byte) : BitVec 2 := b.extractLsb' 0 2

/-- A text-block unit at position `p` (rule R172). -/
def lcdUnit (c : IbCfg) (b : Byte) (text : List Byte) (p : BitVec 2) : Bool :=
  addrUnit c b text (fun k => k == .lcdText) && text.length == 8 && lcdPos b == p

/-- The units the decoder can give under the configuration `c`. The generic host accesses are well-formed on the
unmapped register numbers only: a mapped number decodes to its register's own row. -/
def Instr.wf (c : Cfg) : Instr → Bool
  | .poll _ => true
  | .replyD8 _ _ => true
  | .replyD9 _ _ _ => true
  | .replyDA _ _ _ _ _ _ => true
  | .replyNone b => (raSizeOf b).isNone
  | .upNop opc => upOpcode c opc (fun k => k == .nop)
  | .upNopCrlf opc => upOpcode c opc (fun k => k == .nopCrlf)
  | .upStatus opc _ => upOpcode c opc (fun k => match k with | .status _ => true | _ => false)
  | .upMacro opc _ => upOpcode c opc (fun k => match k with | .runMacro _ => true | _ => false)
  | .upProgEnter opc => upOpcode c opc (fun k => match k with | .progEnter _ => true | _ => false)
  | .upProgExit opc => upOpcode c opc (fun k => match k with | .progExit _ => true | _ => false)
  | .upCvProgPaged opc _ _ => upOpcode c opc (fun k => match k with | .cvProgPaged _ => true | _ => false)
  | .upCvReadPaged opc _ => upOpcode c opc (fun k => match k with | .cvReadPaged _ => true | _ => false)
  | .upLocoCtrl opc _ _ _ => upOpcode c opc (fun k => match k with | .locoCtrl _ => true | _ => false)
  | .upRegProg opc _ _ => upOpcode c opc (fun k => match k with | .regProg _ => true | _ => false)
  | .upRegRead opc _ => upOpcode c opc (fun k => match k with | .regRead _ => true | _ => false)
  | .upCvProgDirect opc _ _ => upOpcode c opc (fun k => match k with | .cvProgDirect _ => true | _ => false)
  | .upCvReadDirect opc _ => upOpcode c opc (fun k => match k with | .cvReadDirect _ => true | _ => false)
  | .upFwVer opc => upOpcode c opc (fun k => match k with | .fwVer _ _ _ => true | _ => false)
  | .upAccCtrl opc _ _ _ => upOpcode c opc (fun k => match k with | .accCtrl _ => true | _ => false)
  | .upOpsLoco opc _ _ _ => upOpcode c opc (fun k => match k with | .opsLoco _ => true | _ => false)
  | .upOpsAcc opc _ _ _ => upOpcode c opc (fun k => match k with | .opsAcc _ => true | _ => false)
  | .upUnsupported opc rest =>
      upOpcode c opc (fun k => k == .unsupported) && (upLen c.up opc).toNat == rest.length + 1
  | .upOutOfRange b => !upInRange c.up b
  | .ibLcdText0 opc text => lcdUnit c.ib opc text 0
  | .ibLcdText1 opc text => lcdUnit c.ib opc text 1
  | .ibLcdText2 opc text => lcdUnit c.ib opc text 2
  | .ibLcdText3 opc text => lcdUnit c.ib opc text 3
  | .ibCursorMove opc p => addrUnit c.ib opc [p] (fun k => k == .cursorMove)
  | .ibTtyAdv opc ch => addrUnit c.ib opc [ch] (fun k => k == .tty true)
  | .ibTtyNoadv opc ch => addrUnit c.ib opc [ch] (fun k => k == .tty false)
  | .ibHome opc => addrUnit c.ib opc [] (fun k => k == .cursorMode .home)
  | .ibClear opc => addrUnit c.ib opc [] (fun k => k == .cursorMode .clear)
  | .ibCursorOff opc => addrUnit c.ib opc [] (fun k => k == .cursorMode .cursorOff)
  | .ibCursorOn opc => addrUnit c.ib opc [] (fun k => k == .cursorMode .cursorOn)
  | .ibDispRight opc => addrUnit c.ib opc [] (fun k => k == .cursorMode .dispRight)
  | .ibCabTypeQuery opc => addrUnit c.ib opc [] (fun k => k == .cabTypeQuery)
  | .ibFcTime opc text => bcastUnit c.ib opc text (fun k => k == .fcTime) && text.length == 8
  | .ibFcRate opc r => bcastUnit c.ib opc [r] (fun k => k == .fcRate)
  | .ibUnknown m b => !isPoll b && ibLen c.ib m b == 0
  | .ibIgnored b => !isPoll b
  | .cfgCabType _ => true
  | .cfgCabAddr _ => true
  | .cfgSpeed _ => true
  | .cfgKey _ => true
  | .cfgAiu _ => true
  | .cfgAiuBit0 _ => true
  | .cfgAiuBit1 _ => true
  | .cfgAiuBit2 _ => true
  | .cfgAiuBit3 _ => true
  | .cfgAiuBit4 _ => true
  | .cfgAiuBit5 _ => true
  | .cfgAiuBit6 _ => true
  | .cfgAiuBit7 _ => true
  | .cfgAiuBit8 _ => true
  | .cfgAiuBit9 _ => true
  | .cfgAiuBit10 _ => true
  | .cfgAiuBit11 _ => true
  | .cfgAiuBit12 _ => true
  | .cfgAiuBit13 _ => true
  | .cfgCabState _ => true
  | .cfgRead reg => decide (hostRegCount ≤ reg.toNat)
  | .cfgWrite reg _ => decide (hostRegCount ≤ reg.toNat)
  | .reset => true

end Sys2Proof
end

