-- ==== Sys2Proof/Decode.lean ====
section
/-! DEFINITION. The decoder and the encoder (spec/30_encoding.md). What is decoded is a `Wire`: the completed
packet, frame, or host access that a port machine hands over. The decoder is total and rejects by name. -/

namespace Sys2Proof

/-- A completed unit as its machine holds it. `up`: the bytes of `ua_buf`. `pc`: what the poll/command machine holds
in the state `m`, one byte or the bytes of `ib_buf` AS STORED (rule R156). `ra`: the bytes of `ra_buf`, or one byte
that is no lead byte. `hostRead`, `hostWrite`: a host access. `rst`: the reset port. -/
inductive Wire where
  | up (c : List Byte)
  | pc (m : CabState) (q : List Byte)
  | ra (r : List Byte)
  | hostRead (reg : Byte)
  | hostWrite (reg : Byte) (v : Word16)
  | rst
deriving DecidableEq, Repr

/-- Why bytes are no unit. `badLength`: not the length of the opcode's format. `badLead`: a reply whose byte 0 is no
lead byte. `noClass`: a completed inbound command of class NONE (rule R177). -/
inductive DecodeError where
  | badLength
  | badLead
  | noClass
deriving DecidableEq, Repr

/-! ### Formats of upstream packets after the opcode (rule R62) -/

/-- Format U1. -/
def formatU1 (i : Instr) : List Byte → Except DecodeError Instr
  | [] => .ok i
  | _ => .error .badLength

/-- Formats U2 and U2R, and an inbound frame of 2 bytes. -/
def formatU2 (f : Byte → Instr) : List Byte → Except DecodeError Instr
  | [d] => .ok (f d)
  | _ => .error .badLength

/-- Format U3R. -/
def formatU3R (f : Byte → Byte → Instr) : List Byte → Except DecodeError Instr
  | [r, d] => .ok (f r d)
  | _ => .error .badLength

/-- Format U3. -/
def formatU3 (f : Word16 → Instr) : List Byte → Except DecodeError Instr
  | [h, l] => .ok (f (word16 h l))
  | _ => .error .badLength

/-- Format U4. -/
def formatU4 (f : Word16 → Byte → Instr) : List Byte → Except DecodeError Instr
  | [h, l, d] => .ok (f (word16 h l) d)
  | _ => .error .badLength

/-- Format U5. -/
def formatU5 (f : Word16 → Byte → Byte → Instr) : List Byte → Except DecodeError Instr
  | [h, l, op, d] => .ok (f (word16 h l) op d)
  | _ => .error .badLength

/-- Format U6. -/
def formatU6 (f : Word16 → Word16 → Byte → Instr) : List Byte → Except DecodeError Instr
  | [h, l, ch, cl, d] => .ok (f (word16 h l) (word16 ch cl) d)
  | _ => .error .badLength

/-- A format whose data is taken as a list of exactly `n` bytes (LCD_TEXT, FC_TIME, UNSUPPORTED). -/
def formatList (n : Nat) (f : List Byte → Instr) (rest : List Byte) : Except DecodeError Instr :=
  if rest.length = n then .ok (f rest) else .error .badLength

/-- The upstream unit of class `k` with opcode `opc` from the bytes after it (rules R62, R120). -/
def decodeUpClass (opc : Byte) (len : BitVec 4) (k : UpClass) (rest : List Byte) : Except DecodeError Instr :=
  match k with
  | .nop => formatU1 (.upNop opc) rest
  | .nopCrlf => formatU1 (.upNopCrlf opc) rest
  | .status _ => formatU2 (.upStatus opc) rest
  | .runMacro _ => formatU2 (.upMacro opc) rest
  | .progEnter _ => formatU1 (.upProgEnter opc) rest
  | .progExit _ => formatU1 (.upProgExit opc) rest
  | .cvProgPaged _ => formatU4 (.upCvProgPaged opc) rest
  | .cvReadPaged _ => formatU3 (.upCvReadPaged opc) rest
  | .locoCtrl _ => formatU5 (.upLocoCtrl opc) rest
  | .regProg _ => formatU3R (.upRegProg opc) rest
  | .regRead _ => formatU2 (.upRegRead opc) rest
  | .cvProgDirect _ => formatU4 (.upCvProgDirect opc) rest
  | .cvReadDirect _ => formatU3 (.upCvReadDirect opc) rest
  | .fwVer _ _ _ => formatU1 (.upFwVer opc) rest
  | .accCtrl _ => formatU5 (.upAccCtrl opc) rest
  | .opsLoco _ => formatU6 (.upOpsLoco opc) rest
  | .opsAcc _ => formatU6 (.upOpsAcc opc) rest
  | .unsupported => formatList (len.toNat - 1) (.upUnsupported opc) rest

/-- An upstream packet (rules R69, R120, R134). -/
def decodeUp (c : Cfg) : List Byte → Except DecodeError Instr
  | [] => .error .badLength
  | opc :: rest =>
    if upInRange c.up opc then decodeUpClass opc (upLen c.up opc) (upClassOf c.up opc) rest
    else formatU1 (.upOutOfRange opc) rest

/-- The text-block unit whose position bits are in the opcode (rule R172). -/
def lcdInstr (opc : Byte) (text : List Byte) : Instr :=
  if lcdPos opc = 0 then .ibLcdText0 opc text
  else if lcdPos opc = 1 then .ibLcdText1 opc text
  else if lcdPos opc = 2 then .ibLcdText2 opc text
  else .ibLcdText3 opc text

/-- The addressed inbound unit of class `k` (rules R66, R170). -/
def decodeAddrClass (opc : Byte) (k : AddrClass) (rest : List Byte) : Except DecodeError Instr :=
  match k with
  | .lcdText => formatList 8 (lcdInstr opc) rest
  | .cursorMove => formatU2 (.ibCursorMove opc) rest
  | .tty true => formatU2 (.ibTtyAdv opc) rest
  | .tty false => formatU2 (.ibTtyNoadv opc) rest
  | .cursorMode .home => formatU1 (.ibHome opc) rest
  | .cursorMode .clear => formatU1 (.ibClear opc) rest
  | .cursorMode .cursorOff => formatU1 (.ibCursorOff opc) rest
  | .cursorMode .cursorOn => formatU1 (.ibCursorOn opc) rest
  | .cursorMode .dispRight => formatU1 (.ibDispRight opc) rest
  | .cabTypeQuery => formatU1 (.ibCabTypeQuery opc) rest
  | .noClass => .error .noClass

/-- The broadcast inbound unit of class `k` (rules R66, R170). -/
def decodeBcastClass (opc : Byte) (k : BcastClass) (rest : List Byte) : Except DecodeError Instr :=
  match k with
  | .fcTime => formatList 8 (.ibFcTime opc) rest
  | .fcRate => formatU2 (.ibFcRate opc) rest
  | .noClass => .error .noClass

/-- An inbound command frame in the mode `m` (rules R70, R158, R170). -/
def decodeIb (c : Cfg) (m : IbMode) (opc : Byte) (rest : List Byte) : Except DecodeError Instr :=
  if ibLen c.ib m opc = 0 then formatU1 (.ibUnknown m opc) rest
  else
    match m with
    | .addressed => decodeAddrClass opc (addrClassOf c.ib opc) rest
    | .broadcast => decodeBcastClass opc (bcastClassOf c.ib opc) rest

/-- What the poll/command machine holds in the state `m` (rules R151, R156, R159). -/
def decodePc (c : Cfg) (m : CabState) : List Byte → Except DecodeError Instr
  | [] => .error .badLength
  | b :: rest =>
    if isPoll b then formatU1 (.poll (pollAddr b)) rest
    else
      match m with
      | .unknown => formatU1 (.ibIgnored b) rest
      | .pingOther => formatU1 (.ibIgnored b) rest
      | .execMyCmd => decodeIb c .addressed b rest
      | .execBroadcastCmd => decodeIb c .broadcast b rest

/-- What the reply assembler holds (rules R67, R191 to R196). -/
def decodeRa : List Byte → Except DecodeError Instr
  | [] => .error .badLength
  | b :: rest =>
    if b = 0xD8 then
      match rest with
      | [r1, r2] => .ok (.replyD8 r1 r2)
      | _ => .error .badLength
    else if b = 0xD9 then
      match rest with
      | [r1, r2, r3] => .ok (.replyD9 r1 r2 r3)
      | _ => .error .badLength
    else if b = 0xDA then
      match rest with
      | [r1, r2, r3, r4, r5, r6] => .ok (.replyDA r1 r2 r3 r4 r5 r6)
      | _ => .error .badLength
    else
      match rest with
      | [] => .ok (.replyNone b)
      | _ => .error .badLead

/-- The named register's row for a mapped host register number (rule R200). -/
def hostRegInstr (a : HostAccess) (reg : Byte) : Option Instr :=
  match reg.toNat with
  | 0 => some (.cfgCabType a)
  | 1 => some (.cfgCabAddr a)
  | 2 => some (.cfgSpeed a)
  | 3 => some (.cfgKey a)
  | 4 => some (.cfgAiu a)
  | 5 => some (.cfgAiuBit0 a)
  | 6 => some (.cfgAiuBit1 a)
  | 7 => some (.cfgAiuBit2 a)
  | 8 => some (.cfgAiuBit3 a)
  | 9 => some (.cfgAiuBit4 a)
  | 10 => some (.cfgAiuBit5 a)
  | 11 => some (.cfgAiuBit6 a)
  | 12 => some (.cfgAiuBit7 a)
  | 13 => some (.cfgAiuBit8 a)
  | 14 => some (.cfgAiuBit9 a)
  | 15 => some (.cfgAiuBit10 a)
  | 16 => some (.cfgAiuBit11 a)
  | 17 => some (.cfgAiuBit12 a)
  | 18 => some (.cfgAiuBit13 a)
  | 19 => some (.cfgCabState a)
  | _ => none

/-- The decoder: total on every wire unit under every configuration. -/
def decode (c : Cfg) : Wire → Except DecodeError Instr
  | .up p => decodeUp c p
  | .pc m q => decodePc c m q
  | .ra r => decodeRa r
  | .hostRead reg => .ok ((hostRegInstr .read reg).getD (.cfgRead reg))
  | .hostWrite reg v => .ok ((hostRegInstr (.write v) reg).getD (.cfgWrite reg v))
  | .rst => .ok .reset

/-! ### The encoder -/

/-- A host access to the register number `reg` (rule R200). -/
def encodeHost (reg : Byte) : HostAccess → Wire
  | .read => .hostRead reg
  | .write v => .hostWrite reg v

/-- The state in which a mode's table is in force (rule R70). -/
def IbMode.state : IbMode → CabState
  | .addressed => .execMyCmd
  | .broadcast => .execBroadcastCmd

/-- The wire unit of an instruction, from the encoding tables of spec/30_encoding.md. -/
def encode : Instr → Wire
  | .poll a => .pc .unknown [pollByte a]
  | .replyD8 r1 r2 => .ra [0xD8, r1, r2]
  | .replyD9 r1 r2 r3 => .ra [0xD9, r1, r2, r3]
  | .replyDA r1 r2 r3 r4 r5 r6 => .ra [0xDA, r1, r2, r3, r4, r5, r6]
  | .replyNone b => .ra [b]
  | .upNop opc => .up [opc]
  | .upNopCrlf opc => .up [opc]
  | .upStatus opc d => .up [opc, d]
  | .upMacro opc d => .up [opc, d]
  | .upProgEnter opc => .up [opc]
  | .upProgExit opc => .up [opc]
  | .upCvProgPaged opc a d => .up [opc, hi8 a, lo8 a, d]
  | .upCvReadPaged opc a => .up [opc, hi8 a, lo8 a]
  | .upLocoCtrl opc a op d => .up [opc, hi8 a, lo8 a, op, d]
  | .upRegProg opc r d => .up [opc, r, d]
  | .upRegRead opc r => .up [opc, r]
  | .upCvProgDirect opc a d => .up [opc, hi8 a, lo8 a, d]
  | .upCvReadDirect opc a => .up [opc, hi8 a, lo8 a]
  | .upFwVer opc => .up [opc]
  | .upAccCtrl opc a op d => .up [opc, hi8 a, lo8 a, op, d]
  | .upOpsLoco opc a cv d => .up [opc, hi8 a, lo8 a, hi8 cv, lo8 cv, d]
  | .upOpsAcc opc a cv d => .up [opc, hi8 a, lo8 a, hi8 cv, lo8 cv, d]
  | .upUnsupported opc rest => .up (opc :: rest)
  | .upOutOfRange b => .up [b]
  | .ibLcdText0 opc text => .pc .execMyCmd (opc :: text)
  | .ibLcdText1 opc text => .pc .execMyCmd (opc :: text)
  | .ibLcdText2 opc text => .pc .execMyCmd (opc :: text)
  | .ibLcdText3 opc text => .pc .execMyCmd (opc :: text)
  | .ibCursorMove opc p => .pc .execMyCmd [opc, p]
  | .ibTtyAdv opc ch => .pc .execMyCmd [opc, ch]
  | .ibTtyNoadv opc ch => .pc .execMyCmd [opc, ch]
  | .ibHome opc => .pc .execMyCmd [opc]
  | .ibClear opc => .pc .execMyCmd [opc]
  | .ibCursorOff opc => .pc .execMyCmd [opc]
  | .ibCursorOn opc => .pc .execMyCmd [opc]
  | .ibDispRight opc => .pc .execMyCmd [opc]
  | .ibCabTypeQuery opc => .pc .execMyCmd [opc]
  | .ibFcTime opc text => .pc .execBroadcastCmd (opc :: text)
  | .ibFcRate opc r => .pc .execBroadcastCmd [opc, r]
  | .ibUnknown m b => .pc m.state [b]
  | .ibIgnored b => .pc .unknown [b]
  | .cfgCabType a => encodeHost 0 a
  | .cfgCabAddr a => encodeHost 1 a
  | .cfgSpeed a => encodeHost 2 a
  | .cfgKey a => encodeHost 3 a
  | .cfgAiu a => encodeHost 4 a
  | .cfgAiuBit0 a => encodeHost 5 a
  | .cfgAiuBit1 a => encodeHost 6 a
  | .cfgAiuBit2 a => encodeHost 7 a
  | .cfgAiuBit3 a => encodeHost 8 a
  | .cfgAiuBit4 a => encodeHost 9 a
  | .cfgAiuBit5 a => encodeHost 10 a
  | .cfgAiuBit6 a => encodeHost 11 a
  | .cfgAiuBit7 a => encodeHost 12 a
  | .cfgAiuBit8 a => encodeHost 13 a
  | .cfgAiuBit9 a => encodeHost 14 a
  | .cfgAiuBit10 a => encodeHost 15 a
  | .cfgAiuBit11 a => encodeHost 16 a
  | .cfgAiuBit12 a => encodeHost 17 a
  | .cfgAiuBit13 a => encodeHost 18 a
  | .cfgCabState a => encodeHost 19 a
  | .cfgRead reg => .hostRead reg
  | .cfgWrite reg v => .hostWrite reg v
  | .reset => .rst

/-! ### Words of the unit table -/

/-- Byte `k` of the instruction whose `nbits` low bits are `w`'s and whose other bits are 0. -/
def tableByte (nbits w k : Nat) : Byte := BitVec.ofNat 8 (w % 2 ^ nbits / 256 ^ k)

/-- The first `n` bytes of that instruction. -/
def tableBytes (nbits w n : Nat) : List Byte := (List.range n).map (tableByte nbits w)

/-- The wire unit a word of the unit table stands for. The table gives the leading byte only and not the port it
comes in by, so the port is taken from the byte, in this order: a host register number (a read of it), a listed
upstream opcode, a poll byte, a reply lead byte, an addressed inbound opcode, a broadcast inbound opcode, else a
first upstream byte outside the range (log entry 8). -/
def tableWire (c : Cfg) (nbits w : Nat) : Wire :=
  let opc := tableByte nbits w 0
  if opc.toNat < hostRegCount then .hostRead opc
  else if upInRange c.up opc && upClassOf c.up opc != .unsupported then
    .up (tableBytes nbits w (upLen c.up opc).toNat)
  else if isPoll opc then .pc .unknown [opc]
  else
    match raSizeOf opc with
    | some n => .ra (tableBytes nbits w n.toNat)
    | none =>
      if ibLen c.ib .addressed opc != 0 then
        .pc .execMyCmd ((tableBytes nbits w (ibLen c.ib .addressed opc).toNat).mapIdx (storedByte c.ib))
      else if ibLen c.ib .broadcast opc != 0 then
        .pc .execBroadcastCmd ((tableBytes nbits w (ibLen c.ib .broadcast opc).toNat).mapIdx (storedByte c.ib))
      else .up [opc]

/-- The instruction the decoder reads from a word of the unit table, under `CFG_DEFAULT`. -/
def decodeTableWord (nbits w : Nat) : Option Instr :=
  match decode cfgDefault (tableWire cfgDefault nbits w) with
  | .ok i => some i
  | .error _ => none

end Sys2Proof
end

