-- ==== Sys2Proof/Machine/Mem.lean ====
section
/-! DEFINITION. A byte buffer: what stands for memory on this hardware (spec/20_memory.md rule R40). It is a list of
(index, byte) pairs in one canonical form, indices strictly rising and no entry equal to what an unlisted index reads
as, so that equal buffers are equal data. -/

namespace Sys2Proof.Machine

/-- A byte buffer as its listed (index, byte) pairs. -/
abbrev Memory := List Host.Cell

/-- What an unlisted index reads as. DESIGN CHOICE, unsafe: the spec leaves a buffer's contents after reset
unspecified and lets no rule read them (rules R240, R241; log entry 1). -/
def memDefault : Byte := 0

/-- `MemRead(space, i, 1)` (spec/00_scope.md section 5). -/
def memRead : Memory → Nat → Byte
  | [], _ => memDefault
  | (k, v) :: rest, a => if k = a then v else memRead rest a

/-- The buffer without any entry for the index `a`. -/
def memErase : Memory → Nat → Memory
  | [], _ => []
  | (k, v) :: rest, a => if k = a then memErase rest a else (k, v) :: memErase rest a

/-- The buffer with the entry `(a, v)`, in its place. -/
def memInsert : Memory → Nat → Byte → Memory
  | [], a, v => [(a, v)]
  | (k, w) :: rest, a, v =>
    if a < k then (a, v) :: (k, w) :: rest
    else if a = k then (a, v) :: rest
    else (k, w) :: memInsert rest a v

/-- `MemWrite(space, i, 1, v)` (spec/00_scope.md section 5), keeping the canonical form. -/
def memWrite (m : Memory) (a : Nat) (v : Byte) : Memory :=
  if v = memDefault then memErase m a else memInsert m a v

/-- Writes bytes at rising indices from `a` on. -/
def memWriteList : Memory → Nat → List Byte → Memory
  | m, _, [] => m
  | m, a, v :: rest => memWriteList (memWrite m a v) (a + 1) rest

/-- `buf[0 .. n-1]` (spec/00_scope.md section 5). -/
def memSlice (m : Memory) (n : Nat) : List Byte := (List.range n).map (memRead m)

/-- The canonical form: indices strictly rising, no entry equal to what an unlisted index reads as. -/
def Memory.wf : Memory → Bool
  | [] => true
  | (k, v) :: rest => v != memDefault && rest.all (fun c => decide (k < c.1)) && Memory.wf rest

/-- Does every entry lie below `size`? -/
def memBelow (size : Nat) (m : Memory) : Bool := m.all (fun c => decide (c.1 < size))

end Sys2Proof.Machine
end

