-- ==== Sys2Proof/Machine/State.lean ====
section
/-! DEFINITION. The framer's state (spec/10_state.md), its faults and refusals, and the state after reset (rule
R240). Fields from `cfg` on are the model's own: the configuration, the transactions the environment has presented
and not yet had consumed, and the output sequences (rule R28). -/

namespace Sys2Proof.Machine

/-- The clock mode `fc_mode` (rule R24). -/
inductive FcMode where
  | none | am | pm | h24
deriving DecidableEq, Repr

/-- An event on the port `evt` (rule R175). DESIGN CHOICE: the columns and rows are 8 bits wide; the spec states no width
for those of LCDMoveCursor, and those of LCDUpdate are 0 or 8 and 0 or 1 (rule R172; log entry 19). -/
inductive Event where
  | fastClock (hours minutes rate : Byte) (mode : FcMode)
  | lcdUpdate (col row : Byte) (text : List Byte) (length : Nat)
  | lcdMoveCursor (col row : Byte)
  | lcdCursorMode (m : CursorMode)
  | lcdPrintChar (ch : Byte) (advance : Bool)
deriving DecidableEq, Repr

/-- One input transaction: what a step consumes (spec/00_scope.md section 5, rule R199). -/
inductive Input where
  | upByte (b : Byte)
  | busByte (b : Byte) (routePc routeRa : Bool)
  | cfgRead (reg : Byte)
  | cfgWrite (reg : Byte) (v : Word16)
  | reset
deriving DecidableEq, Repr

/-- A staging slot: `tx_cnt[s]` and `tx_buf[s]` (rule R13). -/
structure TxSlot where
  cnt : BitVec 3
  buf : Memory
deriving DecidableEq, Repr

/-- The state of one framer. -/
structure State where
  /-- `ua_cnt` (rule R10). -/
  uaCnt : BitVec 4
  /-- `ua_len` (rule R11). -/
  uaLen : BitVec 4
  /-- `ua_buf[0..10]` (rule R12). -/
  uaBuf : Memory
  /-- Staging slot 0 (rule R13). -/
  tx0 : TxSlot
  /-- Staging slot 1 (rule R13). -/
  tx1 : TxSlot
  /-- `cab_state` (rule R15). -/
  cabState : CabState
  /-- `ib_cnt` (rule R16). -/
  ibCnt : BitVec 4
  /-- `ib_len` (rule R16). -/
  ibLen : BitVec 4
  /-- `ib_buf[0..8]` (rule R16). -/
  ibBuf : Memory
  /-- `ra_active` (rule R17). -/
  raActive : Bool
  /-- `ra_size` (rule R18). -/
  raSize : BitVec 3
  /-- `ra_cnt` (rule R18). -/
  raCnt : BitVec 3
  /-- `ra_buf[0..6]` (rule R18). -/
  raBuf : Memory
  /-- `cab_type` (rule R19). -/
  cabType : Byte
  /-- `cab_addr` (rule R20). -/
  cabAddr : BitVec 6
  /-- `aiu` (rule R21). -/
  aiu : BitVec 14
  /-- `speed` (rule R22). -/
  speed : BitVec 7
  /-- `key` (rule R23). -/
  key : BitVec 7
  /-- `fc_hours` (rule R24). -/
  fcHours : Byte
  /-- `fc_minutes` (rule R24). -/
  fcMinutes : Byte
  /-- `fc_rate` (rule R24). -/
  fcRate : Byte
  /-- `fc_mode` (rule R24). -/
  fcMode : FcMode
  /-- MODEL: the configuration record, a constant of the machine (rules R1, R28; log entry 2). -/
  cfg : Cfg
  /-- MODEL: the transactions presented and not yet consumed, in the order of consumption (rule R47; log entry 7). -/
  inputs : List Input
  /-- MODEL: the packets emitted on `up_tx`, in order (rule R28). -/
  upTx : List (List Byte)
  /-- MODEL: the packets emitted on `bus_tx`, in order (rule R28). -/
  busTx : List (List Byte)
  /-- MODEL: the events emitted on `evt`, in order (rule R28). -/
  evt : List Event
  /-- MODEL: the values returned on the port `host`, in order (rules R199, R201). -/
  hostOut : List Word16
deriving DecidableEq, Repr

/-- Which assembly buffer an index lies outside of. -/
inductive Buffer where
  | ua | ib | ra
deriving DecidableEq, Repr

/-- Why a step stops with a fault. No run from reset meets one (rules R112, R156, R241): both are raised by the
port machines of Machine/Feed.lean, only from states that break the counters' invariants (rules R10, R16, R18).
Both are safe: the machine stops where the spec gives no behaviour. -/
inductive Fault where
  /-- A position counter points past its buffer, at an index that does not exist (rule R40). Raised by the store of
  an assembler. Safe. -/
  | bufferOverrun (b : Buffer)
  /-- The completed bytes are no unit of the format their opcode selects, so a field would be read that the packet
  did not write (rule R241). Raised on completion. Safe. -/
  | badUnit (e : DecodeError)
deriving DecidableEq, Repr

/-- Why a step is refused. -/
inductive Refusal where
  /-- The instruction has no meaning in the model yet; raised by exec's arm of that instruction. Safe. -/
  | notModelled (mnemonic : String)
  /-- The configuration is not well-formed, and "a model must refuse (not guess) an ill-formed one" (rule R1).
  Raised by the step. Safe. -/
  | illFormedCfg
deriving DecidableEq, Repr

/-- The outcome of a meaning or a step. -/
abbrev Result := Host.Outcome State Fault Refusal

/-- The state of rule R240 under the configuration `c`, with nothing presented and nothing emitted. The registers
the rule leaves unspecified (`ua_len`, `ib_len`, `ra_size` and the buffers) are zero: DESIGN CHOICE, unsafe, and
unobservable in a run (rule R241; log entry 1). -/
def State.resetOf (c : Cfg) : State where
  uaCnt := 0
  uaLen := 0
  uaBuf := []
  tx0 := ⟨0, []⟩
  tx1 := ⟨0, []⟩
  cabState := .unknown
  ibCnt := 0
  ibLen := 0
  ibBuf := []
  raActive := false
  raSize := 0
  raCnt := 0
  raBuf := []
  cabType := c.dev.cabTypeUnknown
  cabAddr := 0
  aiu := 0
  speed := speedUnused
  key := c.dev.noKey
  fcHours := 0
  fcMinutes := 0
  fcRate := 0
  fcMode := .none
  cfg := c
  inputs := []
  upTx := []
  busTx := []
  evt := []
  hostOut := []

/-- The machine right after reset (rule R240), with the configuration `CFG_DEFAULT` (log entry 2). -/
def State.reset : State := State.resetOf cfgDefault

end Sys2Proof.Machine
end

