-- ==== Sys2Proof/Machine/Flags.lean ====
section
/-! DEFINITION. The status predicates of rule R25, the numeric codes of the state registers, and quiescence (rule
R244). The framer has no arithmetic condition codes. -/

namespace Sys2Proof.Machine

/-- The 2-bit code of `cab_state` (rule R15). -/
def cabStateCode : CabState → BitVec 2
  | .unknown => 0
  | .pingOther => 1
  | .execMyCmd => 2
  | .execBroadcastCmd => 3

/-- `cab_state >= EXEC_MY_CMD` (rule R156). -/
def executing (c : CabState) : Bool := decide (cabStateCode .execMyCmd ≤ cabStateCode c)

/-- The 2-bit code of `fc_mode` (rule R24). -/
def fcModeCode : FcMode → BitVec 2
  | .none => 0
  | .am => 1
  | .pm => 2
  | .h24 => 3

/-- The number of a cursor mode (rule R173). -/
def cursorModeCode : CursorMode → Nat
  | .home => 0
  | .clear => 1
  | .cursorOff => 2
  | .cursorOn => 3
  | .dispRight => 4

/-- Is a staging slot pending: `tx_cnt[s] != 0` (rules R13, R25)? -/
def pending (t : TxSlot) : Bool := t.cnt != 0

/-- Is any frame staged: the test of rule R152? -/
def anyPending (s : State) : Bool := pending s.tx0 || pending s.tx1

/-- "a clock mode has previously been established": `fc_mode != FC_NONE` (rule R25). -/
def clockEstablished (s : State) : Bool := s.fcMode != .none

/-- The condition of a FastClock event (rules R178, R179). -/
def fastClockDue (s : State) : Bool := clockEstablished s && s.fcRate != 0

/-- Quiescence (rule R244): no packet, frame, reply or staged frame is outstanding. -/
def quiescent (s : State) : Bool :=
  s.uaCnt == 0 && s.ibCnt == 0 && !s.raActive && s.tx0.cnt == 0 && s.tx1.cnt == 0

end Sys2Proof.Machine
end

