-- ==== Sys2Proof/Machine/Operands.lean ====
section
/-! DEFINITION. The operand forms: the host port's registers (rules R200 to R208), and the fields a unit's bytes
give (rules R172, R178, R179). -/

namespace Sys2Proof.Machine

/-- The value of a register on a host read, zero-extended; 0 for a number that is not mapped (rules R200, R201). -/
def regRead (s : State) (reg : Byte) : Word16 :=
  if reg = 0 then s.cabType.setWidth 16
  else if reg = 1 then s.cabAddr.setWidth 16
  else if reg = 2 then s.speed.setWidth 16
  else if reg = 3 then s.key.setWidth 16
  else if reg = 4 then s.aiu.setWidth 16
  else if reg.toNat < 19 then (BitVec.ofBool (s.aiu.getLsbD (reg.toNat - 5))).setWidth 16
  else if reg = 19 then (cabStateCode s.cabState).setWidth 16
  else 0

/-- `aiu` with bit `n` set to `v[0]` and the other bits unchanged (rule R207). -/
def aiuWithBit (aiu : BitVec 14) (n : Nat) (v : Word16) : BitVec 14 :=
  if v.getLsbD 0 then aiu ||| (1#14 <<< n) else aiu &&& ~~~(1#14 <<< n)

/-- A host write, truncated to the register's width; ignored for `CAB_STATE` and for a number that is not mapped
(rules R200, R202 to R208). -/
def regWrite (s : State) (reg : Byte) (v : Word16) : State :=
  if reg = 0 then { s with cabType := v.setWidth 8 }
  else if reg = 1 then { s with cabAddr := v.setWidth 6 }
  else if reg = 2 then { s with speed := v.setWidth 7 }
  else if reg = 3 then { s with key := v.setWidth 7 }
  else if reg = 4 then { s with aiu := v.setWidth 14 }
  else if reg.toNat < 19 then { s with aiu := aiuWithBit s.aiu (reg.toNat - 5) v }
  else s

/-- The column and row of a text block: `col = 8 * p[0]`, `row = p[1]` for `p = q[0][1:0]` (rule R172). -/
def lcdColRow (opc : Byte) : Byte × Byte :=
  (8 * (BitVec.ofBool ((lcdPos opc).getLsbD 0)).setWidth 8, (BitVec.ofBool ((lcdPos opc).getLsbD 1)).setWidth 8)

/-- `q[i]` of a stored inbound command (spec/44_inbound_dispatch.md). -/
def qByte (opc : Byte) (data : List Byte) (i : Nat) : Byte := (opc :: data).getD i memDefault

/-- The mode of a fast-clock time frame from its mode character (rule R178). -/
def fcModeOf (ch : Byte) : FcMode :=
  if ch = 0x41 then .am else if ch = 0x50 then .pm else .h24

/-- The rate of a fast-clock rate frame (rule R179). -/
def fcRateOf (r : Byte) : Byte := r &&& 0x3F

end Sys2Proof.Machine
end

