-- ==== Sys2Proof/Machine/Ops.lean ====
section
/-! DEFINITION. The named operations: emissions, staging (rules R121, R122), raising a condition (rule R224, what
stands for taking an exception) and coming back from it (rule R225), the poll turn (rules R152 to R155), and host
accesses. -/

namespace Sys2Proof.Machine

/-! ### Emissions (spec/00_scope.md section 5) -/

/-- `emit up_tx, p`. -/
def emitUp (p : List Byte) (s : State) : State := { s with upTx := s.upTx ++ [p] }

/-- `emit bus_tx, p`. -/
def emitBus (p : List Byte) (s : State) : State := { s with busTx := s.busTx ++ [p] }

/-- `event e`. -/
def emitEvt (e : Event) (s : State) : State := { s with evt := s.evt ++ [e] }

/-- A value returned on the port `host` (rule R201). -/
def hostReturn (v : Word16) (s : State) : State := { s with hostOut := s.hostOut ++ [v] }

/-- `if imm: emit up_tx, [RSP_OK]` (rules R125 to R130). -/
def respondIf (imm : Bool) (s : State) : State := if imm then emitUp [s.cfg.rsp.ok] s else s

/-! ### Raising a condition -/

/-- The conditions the translator raises (rule R220). -/
inductive Cond where
  | notSupported | addressOutOfRange | cvOutOfRange
deriving DecidableEq, Repr

/-- `code(X)` (rule R220). -/
def condCode (r : RspCfg) : Cond → Byte
  | .notSupported => r.notSupported
  | .addressOutOfRange => r.addrRange
  | .cvOutOfRange => r.cvRange

/-- `raise X` (rule R224): the status byte goes upstream, nothing is staged, no state is saved and no mode changes. -/
def raiseCond (x : Cond) (s : State) : State := emitUp [condCode s.cfg.rsp x] s

/-- What follows a translation, with a condition raised or without one (rules R113, R225): the assembler is empty,
and the next upstream byte is the first of a packet. There is no other return. -/
def uaClear (s : State) : State := { s with uaCnt := 0 }

/-- What follows a dispatched inbound command (rule R157). -/
def ibClear (s : State) : State := { s with ibCnt := 0 }

/-- What follows a decoded reply (rule R192). -/
def raClear (s : State) : State := { s with raActive := false, raCnt := 0 }

/-! ### Staging -/

/-- The five bytes of a frame: the body and its checksum (rules R65, R90). -/
def frameOf (g0 g1 g2 g3 : Byte) : List Byte := [g0, g1, g2, g3, xor4 g0 g1 g2 g3]

/-- A slot after a frame is written to it and marked ready (rule R121). -/
def fillSlot (t : TxSlot) (g0 g1 g2 g3 : Byte) : TxSlot :=
  { cnt := 5, buf := memWriteList t.buf 0 (frameOf g0 g1 g2 g3) }

/-- `STAGE1` (rule R121). -/
def stage1 (g0 g1 g2 g3 : Byte) (s : State) : State :=
  { s with tx0 := fillSlot s.tx0 g0 g1 g2 g3, tx1 := { s.tx1 with cnt := 0 } }

/-- `STAGE2` (rule R122). -/
def stage2 (g0 g1 g2 g3 h0 h1 h2 h3 : Byte) (s : State) : State :=
  { s with tx0 := fillSlot s.tx0 g0 g1 g2 g3, tx1 := fillSlot s.tx1 h0 h1 h2 h3 }

/-! ### The translator's class operations -/

/-- Class FIXED (rule R125), with the last body byte given. -/
def fixedCmd (p : FixedParams) (g3 : Byte) (s : State) : State :=
  respondIf p.imm (stage1 p.k0 p.k1 p.k2 g3 s)

/-- Class ADDR_CTRL (rules R126, R127). -/
def addrCtrl (limit : Word16) (imm : Bool) (addr : Word16) (op data : Byte) (s : State) : State :=
  if addr > limit then raiseCond .addressOutOfRange s
  else respondIf imm (stage1 (addrEnc addr).1 (addrEnc addr).2 op data s)

/-- Class CV (rules R128, R129). -/
def cvCmd (p : CvParams) (addr : Word16) (data : Byte) (s : State) : State :=
  if addr > cvAddrMax then raiseCond .cvOutOfRange s
  else
    let v := cvPack p.base addr data
    respondIf p.imm (stage1 p.busop v.1 v.2.1 v.2.2 s)

/-- Class OPS (rules R130, R131), the address checked before the CV (rule R226). -/
def opsCmd (limit : Word16) (p : OpsParams) (addr cv : Word16) (data : Byte) (s : State) : State :=
  if addr > limit then raiseCond .addressOutOfRange s
  else if cv > cvAddrMax then raiseCond .cvOutOfRange s
  else
    let v := cvPack p.base cv data
    respondIf p.imm
      (stage2 (addrEnc addr).1 (addrEnc addr).2 p.kOp p.kData p.busop v.1 v.2.1 v.2.2 s)

/-! ### The poll turn -/

/-- `tx_buf[s][0..4]`. -/
def slotFrame (t : TxSlot) : List Byte := memSlice t.buf frameSize

/-- The first line of `FLUSH` (rule R153). -/
def flush0 (s : State) : State :=
  if pending s.tx0 then { emitBus (slotFrame s.tx0) s with tx0 := { s.tx0 with cnt := 0 } } else s

/-- The second line of `FLUSH` (rule R153). -/
def flush1 (s : State) : State :=
  if pending s.tx1 then { emitBus (slotFrame s.tx1) s with tx1 := { s.tx1 with cnt := 0 } } else s

/-- `FLUSH` (rule R153): slot 0 before slot 1. -/
def flush (s : State) : State := flush1 (flush0 s)

/-- `PUSH_KEY_SPEED` (rule R154). -/
def pushKeySpeed (s : State) : State :=
  { emitBus [s.key.setWidth 8, s.speed.setWidth 8] s with key := s.cfg.dev.noKey }

/-- `PUSH_AIU` (rule R155): the low half first. -/
def pushAiu (s : State) : State :=
  emitBus [lo7 (s.aiu.setWidth 16), hi7 (s.aiu.setWidth 16)] s

/-- Does a node of this type flush staged frames: LCD, no-LCD or SMART (rule R152)? -/
def flushingType (d : DevCfg) (t : Byte) : Bool := t == d.cabTypeLcd || t == d.cabTypeNoLcd || t == d.cabTypeSmart

/-- `POLL_REACT` (rule R152). -/
def pollReact (s : State) : State :=
  if flushingType s.cfg.dev s.cabType then
    if anyPending s then flush s
    else if s.cabType != s.cfg.dev.cabTypeSmart then pushKeySpeed s
    else s
  else if s.cabType == s.cfg.dev.cabTypeAiu then pushAiu s
  else s

/-- A poll byte with the address `a` (rule R151). -/
def pollTurn (a : BitVec 6) (s : State) : State :=
  if a = broadcastAddr then { s with ibCnt := 0, cabState := .execBroadcastCmd }
  else if a ≠ s.cabAddr then { s with ibCnt := 0, cabState := .pingOther }
  else pollReact { s with ibCnt := 0, cabState := .execMyCmd }

/-! ### Inbound dispatch -/

/-- A text block (rule R172). -/
def lcdText (opc : Byte) (text : List Byte) (s : State) : State :=
  emitEvt (.lcdUpdate (lcdColRow opc).1 (lcdColRow opc).2 text 8) s

/-- The FastClock event with the cached values (rules R178, R179). -/
def fastClockEvt (s : State) : State := emitEvt (.fastClock s.fcHours s.fcMinutes s.fcRate s.fcMode) s

/-- The fast-clock time broadcast's update of the cache (rule R178). -/
def fcTimeCache (opc : Byte) (text : List Byte) (s : State) : State :=
  let q := qByte opc text
  { s with
    fcHours := dec2 (q s.cfg.ib.fcHPos) (q (s.cfg.ib.fcHPos + 1))
    fcMinutes := dec2 (q s.cfg.ib.fcMPos) (q (s.cfg.ib.fcMPos + 1))
    fcMode := fcModeOf (q s.cfg.ib.fcModePos) }

/-- The fast-clock time broadcast (rule R178): the condition is tested after the update. -/
def fcTime (opc : Byte) (text : List Byte) (s : State) : State :=
  let t := fcTimeCache opc text s
  if fastClockDue t then fastClockEvt t else t

/-- The fast-clock rate broadcast (rule R179): nothing happens unless the rate changes. -/
def fcRateCmd (r : Byte) (s : State) : State :=
  if fcRateOf r != s.fcRate then
    let t := { s with fcRate := fcRateOf r }
    if fastClockDue t then fastClockEvt t else t
  else s

/-! ### Replies and host accesses -/

/-- A decoded reply's packet: the values and the mapped status, last (rules R194 to R197). -/
def replyPacket (values : List Byte) (r1 : Byte) (s : State) : State :=
  emitUp (values ++ [replyCode s.cfg.rsp r1]) s

/-- `CFG_READ(reg)` (rule R201) or `CFG_WRITE(reg, v)` (rule R202). -/
def hostAccess (reg : Byte) (a : HostAccess) (s : State) : State :=
  match a with
  | .read => hostReturn (regRead s reg) s
  | .write v => regWrite s reg v

/-- The state of rule R240; what the environment has presented, what has been emitted and the configuration stay. -/
def resetState (s : State) : State :=
  { State.resetOf s.cfg with
    inputs := s.inputs, upTx := s.upTx, busTx := s.busTx, evt := s.evt, hostOut := s.hostOut }

end Sys2Proof.Machine
end

