-- ==== Sys2Proof/Machine/HostPort.lean ====
section
/-! DEFINITION. The host port accesses (spec/46_host_interface.md rules R200 to R209). -/

namespace Sys2Proof.Machine

/-- `CAB_TYPE`, register 0 (rule R203). -/
def execCfgCabType (a : HostAccess) (s : State) : Result := .next (hostAccess 0 a s)

/-- `CAB_ADDR`, register 1 (rule R204). -/
def execCfgCabAddr (a : HostAccess) (s : State) : Result := .next (hostAccess 1 a s)

/-- `SPEED`, register 2 (rule R205). -/
def execCfgSpeed (a : HostAccess) (s : State) : Result := .next (hostAccess 2 a s)

/-- `KEY`, register 3 (rule R206). -/
def execCfgKey (a : HostAccess) (s : State) : Result := .next (hostAccess 3 a s)

/-- `AIU`, register 4 (rule R207). -/
def execCfgAiu (a : HostAccess) (s : State) : Result := .next (hostAccess 4 a s)

/-- `AIU_BIT[0]`, register 5 (rule R207). -/
def execCfgAiuBit0 (a : HostAccess) (s : State) : Result := .next (hostAccess 5 a s)

/-- `AIU_BIT[1]`, register 6 (rule R207). -/
def execCfgAiuBit1 (a : HostAccess) (s : State) : Result := .next (hostAccess 6 a s)

/-- `AIU_BIT[2]`, register 7 (rule R207). -/
def execCfgAiuBit2 (a : HostAccess) (s : State) : Result := .next (hostAccess 7 a s)

/-- `AIU_BIT[3]`, register 8 (rule R207). -/
def execCfgAiuBit3 (a : HostAccess) (s : State) : Result := .next (hostAccess 8 a s)

/-- `AIU_BIT[4]`, register 9 (rule R207). -/
def execCfgAiuBit4 (a : HostAccess) (s : State) : Result := .next (hostAccess 9 a s)

/-- `AIU_BIT[5]`, register 10 (rule R207). -/
def execCfgAiuBit5 (a : HostAccess) (s : State) : Result := .next (hostAccess 10 a s)

/-- `AIU_BIT[6]`, register 11 (rule R207). -/
def execCfgAiuBit6 (a : HostAccess) (s : State) : Result := .next (hostAccess 11 a s)

/-- `AIU_BIT[7]`, register 12 (rule R207). -/
def execCfgAiuBit7 (a : HostAccess) (s : State) : Result := .next (hostAccess 12 a s)

/-- `AIU_BIT[8]`, register 13 (rule R207). -/
def execCfgAiuBit8 (a : HostAccess) (s : State) : Result := .next (hostAccess 13 a s)

/-- `AIU_BIT[9]`, register 14 (rule R207). -/
def execCfgAiuBit9 (a : HostAccess) (s : State) : Result := .next (hostAccess 14 a s)

/-- `AIU_BIT[10]`, register 15 (rule R207). -/
def execCfgAiuBit10 (a : HostAccess) (s : State) : Result := .next (hostAccess 15 a s)

/-- `AIU_BIT[11]`, register 16 (rule R207). -/
def execCfgAiuBit11 (a : HostAccess) (s : State) : Result := .next (hostAccess 16 a s)

/-- `AIU_BIT[12]`, register 17 (rule R207). -/
def execCfgAiuBit12 (a : HostAccess) (s : State) : Result := .next (hostAccess 17 a s)

/-- `AIU_BIT[13]`, register 18 (rule R207). -/
def execCfgAiuBit13 (a : HostAccess) (s : State) : Result := .next (hostAccess 18 a s)

/-- `CAB_STATE`, register 19 (rule R208). -/
def execCfgCabState (a : HostAccess) (s : State) : Result := .next (hostAccess 19 a s)

/-- `CFG_READ` of any register number (rule R201). -/
def execCfgRead (reg : Byte) (s : State) : Result := .next (hostAccess reg .read s)

/-- `CFG_WRITE` of any register number (rule R202). -/
def execCfgWrite (reg : Byte) (v : Word16) (s : State) : Result := .next (hostAccess reg (.write v) s)

end Sys2Proof.Machine
end

