-- ==== Sys2Proof/Machine/Inbound.lean ====
section
/-! DEFINITION. The inbound cab-bus commands (spec/44_inbound_dispatch.md rules R170 to R179; spec/43_poll_command_fsm.md rules R158, R159). -/

namespace Sys2Proof.Machine

/-- `IB_LCD_TEXT0` (rule R172). -/
def execIbLcdText0 (opc : Byte) (text : List Byte) (s : State) : Result := .next (lcdText opc text s)

/-- `IB_LCD_TEXT1` (rule R172). -/
def execIbLcdText1 (opc : Byte) (text : List Byte) (s : State) : Result := .next (lcdText opc text s)

/-- `IB_LCD_TEXT2` (rule R172). -/
def execIbLcdText2 (opc : Byte) (text : List Byte) (s : State) : Result := .next (lcdText opc text s)

/-- `IB_LCD_TEXT3` (rule R172). -/
def execIbLcdText3 (opc : Byte) (text : List Byte) (s : State) : Result := .next (lcdText opc text s)

/-- `IB_CURSOR_MOVE` (rule R176). -/
def execIbCursorMove (_ p : Byte) (s : State) : Result := 
  .next (emitEvt (.lcdMoveCursor (cursorDecode s.cfg.ib p).1 (cursorDecode s.cfg.ib p).2) s)

/-- `IB_TTY_ADV` (rule R174). -/
def execIbTtyAdv (_ ch : Byte) (s : State) : Result := .next (emitEvt (.lcdPrintChar ch true) s)

/-- `IB_TTY_NOADV` (rule R174). -/
def execIbTtyNoadv (_ ch : Byte) (s : State) : Result := .next (emitEvt (.lcdPrintChar ch false) s)

/-- `IB_HOME`: exactly one event (rule R173). -/
def execIbHome (_ : Byte) (s : State) : Result := .next (emitEvt (.lcdCursorMode .home) s)

/-- `IB_CLEAR`: exactly one event (rule R173). -/
def execIbClear (_ : Byte) (s : State) : Result := .next (emitEvt (.lcdCursorMode .clear) s)

/-- `IB_CURSOR_OFF`: exactly one event (rule R173). -/
def execIbCursorOff (_ : Byte) (s : State) : Result := .next (emitEvt (.lcdCursorMode .cursorOff) s)

/-- `IB_CURSOR_ON`: exactly one event (rule R173). -/
def execIbCursorOn (_ : Byte) (s : State) : Result := .next (emitEvt (.lcdCursorMode .cursorOn) s)

/-- `IB_DISP_RIGHT`: exactly one event (rule R173). -/
def execIbDispRight (_ : Byte) (s : State) : Result := .next (emitEvt (.lcdCursorMode .dispRight) s)

/-- `IB_CAB_TYPE_QUERY` (rule R171). -/
def execIbCabTypeQuery (_ : Byte) (s : State) : Result := .next (emitBus [s.cabType] s)

/-- `IB_FC_TIME` (rule R178). -/
def execIbFcTime (opc : Byte) (text : List Byte) (s : State) : Result := .next (fcTime opc text s)

/-- `IB_FC_RATE` (rule R179). -/
def execIbFcRate (_ r : Byte) (s : State) : Result := .next (fcRateCmd r s)

/-- `IB_UNKNOWN`: the byte is discarded (rule R158). -/
def execIbUnknown (_ : IbMode) (_ : Byte) (s : State) : Result := .next s

/-- A non-poll byte in `UNKNOWN` or `PING_OTHER` is ignored (rule R159). -/
def execIbIgnored (_ : Byte) (s : State) : Result := .next s

end Sys2Proof.Machine
end

