-- ==== Sys2Proof/Machine/Poll.lean ====
section
/-! DEFINITION. The cab-bus poll byte (spec/43_poll_command_fsm.md rules R151 to R155). -/

namespace Sys2Proof.Machine

/-- `POLL` (rule R151). -/
def execPoll (a : BitVec 6) (s : State) : Result := .next (pollTurn a s)

end Sys2Proof.Machine
end

