-- ==== Sys2Proof/Machine/Reply.lean ====
section
/-! DEFINITION. The bus-master replies (spec/45_reply_assembler.md rules R191, R194 to R198). -/

namespace Sys2Proof.Machine

/-- `REPLY_D8` (rule R194). -/
def execReplyD8 (r1 r2 : Byte) (s : State) : Result := .next (replyPacket (unpD8 r1 r2) r1 s)

/-- `REPLY_D9` (rule R195). -/
def execReplyD9 (r1 r2 r3 : Byte) (s : State) : Result := .next (replyPacket (unpD9 r1 r2 r3) r1 s)

/-- `REPLY_DA` (rule R196). -/
def execReplyDA (r1 r2 r3 r4 r5 r6 : Byte) (s : State) : Result := 
  .next (replyPacket (unpDA r1 r2 r3 r4 r5 r6) r1 s)

/-- A byte that is no lead byte while no reply is assembled: "the byte is ignored" (rule R191). -/
def execReplyNone (_ : Byte) (s : State) : Result := .next s

end Sys2Proof.Machine
end

