-- ==== Sys2Proof/Machine/ResetStep.lean ====
section
/-! DEFINITION. The `RESET` step (spec/70_reset_and_hazards.md rule R240). -/

namespace Sys2Proof.Machine

/-- `RESET` (rule R240). -/
def execReset  (s : State) : Result := .next (resetState s)

end Sys2Proof.Machine
end

