-- ==== Sys2Proof/Machine/Upstream.lean ====
section
/-! DEFINITION. The upstream commands (spec/42_upstream_translator.md rules R123 to R134). -/

namespace Sys2Proof.Machine

/-- `UP_NOP` (rule R123). -/
def execUpNop (_ : Byte) (s : State) : Result := .next (emitUp [s.cfg.rsp.ok] s)

/-- `UP_NOP_CRLF` (rule R124). -/
def execUpNopCrlf (_ : Byte) (s : State) : Result := 
  .next (emitUp [s.cfg.rsp.ok, s.cfg.rsp.eol0, s.cfg.rsp.eol1] s)

/-- `UP_STATUS` (rule R125, `has_data = 1`). -/
def execUpStatus (opc data : Byte) (s : State) : Result := 
  .next (fixedCmd (upClassOf s.cfg.up opc).fixedParams data s)

/-- `UP_MACRO` (rule R125, `has_data = 1`). -/
def execUpMacro (opc data : Byte) (s : State) : Result := 
  .next (fixedCmd (upClassOf s.cfg.up opc).fixedParams data s)

/-- `UP_PROG_ENTER` (rule R125, `has_data = 0`). -/
def execUpProgEnter (opc : Byte) (s : State) : Result := 
  .next (fixedCmd (upClassOf s.cfg.up opc).fixedParams (upClassOf s.cfg.up opc).fixedParams.k3 s)

/-- `UP_PROG_EXIT` (rule R125, `has_data = 0`). -/
def execUpProgExit (opc : Byte) (s : State) : Result := 
  .next (fixedCmd (upClassOf s.cfg.up opc).fixedParams (upClassOf s.cfg.up opc).fixedParams.k3 s)

/-- `UP_CV_PROG_PAGED` (rule R128). -/
def execUpCvProgPaged (opc : Byte) (addr : Word16) (data : Byte) (s : State) : Result := 
  .next (cvCmd (upClassOf s.cfg.up opc).cvParams addr data s)

/-- `UP_CV_PROG_DIRECT` (rule R128). -/
def execUpCvProgDirect (opc : Byte) (addr : Word16) (data : Byte) (s : State) : Result := 
  .next (cvCmd (upClassOf s.cfg.up opc).cvParams addr data s)

/-- `UP_CV_READ_PAGED` (rule R128; a read packs `data = 0`). -/
def execUpCvReadPaged (opc : Byte) (addr : Word16) (s : State) : Result := 
  .next (cvCmd (upClassOf s.cfg.up opc).cvParams addr 0 s)

/-- `UP_CV_READ_DIRECT` (rule R128; a read packs `data = 0`). -/
def execUpCvReadDirect (opc : Byte) (addr : Word16) (s : State) : Result := 
  .next (cvCmd (upClassOf s.cfg.up opc).cvParams addr 0 s)

/-- `UP_REG_PROG` (rule R129). -/
def execUpRegProg (opc reg data : Byte) (s : State) : Result := 
  .next (cvCmd (upClassOf s.cfg.up opc).cvParams (reg.setWidth 16) data s)

/-- `UP_REG_READ` (rule R129). -/
def execUpRegRead (opc reg : Byte) (s : State) : Result := 
  .next (cvCmd (upClassOf s.cfg.up opc).cvParams (reg.setWidth 16) 0 s)

/-- `UP_LOCO_CTRL` (rule R126). -/
def execUpLocoCtrl (opc : Byte) (addr : Word16) (op data : Byte) (s : State) : Result := 
  .next (addrCtrl locoAddrMax (upClassOf s.cfg.up opc).addrImm addr op data s)

/-- `UP_ACC_CTRL` (rule R127). -/
def execUpAccCtrl (opc : Byte) (addr : Word16) (op data : Byte) (s : State) : Result := 
  .next (addrCtrl accAddrMax (upClassOf s.cfg.up opc).addrImm addr op data s)

/-- `UP_OPS_LOCO` (rule R130). -/
def execUpOpsLoco (opc : Byte) (addr cv : Word16) (data : Byte) (s : State) : Result := 
  .next (opsCmd locoAddrMax (upClassOf s.cfg.up opc).opsParams addr cv data s)

/-- `UP_OPS_ACC` (rule R131). -/
def execUpOpsAcc (opc : Byte) (addr cv : Word16) (data : Byte) (s : State) : Result := 
  .next (opsCmd accAddrMax (upClassOf s.cfg.up opc).opsParams addr cv data s)

/-- `UP_FW_VER` (rule R132). -/
def execUpFwVer (opc : Byte) (s : State) : Result := .next (emitUp (upClassOf s.cfg.up opc).verBytes s)

/-- `UP_UNSUPPORTED` (rule R133). -/
def execUpUnsupported (_ : Byte) (_ : List Byte) (s : State) : Result := 
  .next (raiseCond .notSupported s)

/-- `UP_OUT_OF_RANGE` (rule R134). -/
def execUpOutOfRange (_ : Byte) (s : State) : Result := .next (raiseCond .notSupported s)

end Sys2Proof.Machine
end

