-- ==== Sys2Proof/Machine/Dispatch.lean ====
section
/-! DEFINITION. One arm per unit of spec/opcode_table.json: the meaning of each. -/

namespace Sys2Proof.Machine

def exec (i : Instr) (s : State) : Host.Outcome State Fault Refusal :=
  match i with
  | .poll a => Sys2Proof.Machine.execPoll a s
  | .replyD8 r1 r2 => Sys2Proof.Machine.execReplyD8 r1 r2 s
  | .replyD9 r1 r2 r3 => Sys2Proof.Machine.execReplyD9 r1 r2 r3 s
  | .replyDA r1 r2 r3 r4 r5 r6 => Sys2Proof.Machine.execReplyDA r1 r2 r3 r4 r5 r6 s
  | .replyNone b => Sys2Proof.Machine.execReplyNone b s
  | .upNop opc => Sys2Proof.Machine.execUpNop opc s
  | .upNopCrlf opc => Sys2Proof.Machine.execUpNopCrlf opc s
  | .upStatus opc data => Sys2Proof.Machine.execUpStatus opc data s
  | .upMacro opc data => Sys2Proof.Machine.execUpMacro opc data s
  | .upProgEnter opc => Sys2Proof.Machine.execUpProgEnter opc s
  | .upProgExit opc => Sys2Proof.Machine.execUpProgExit opc s
  | .upCvProgPaged opc addr data => Sys2Proof.Machine.execUpCvProgPaged opc addr data s
  | .upCvReadPaged opc addr => Sys2Proof.Machine.execUpCvReadPaged opc addr s
  | .upLocoCtrl opc addr op data => Sys2Proof.Machine.execUpLocoCtrl opc addr op data s
  | .upRegProg opc reg data => Sys2Proof.Machine.execUpRegProg opc reg data s
  | .upRegRead opc reg => Sys2Proof.Machine.execUpRegRead opc reg s
  | .upCvProgDirect opc addr data => Sys2Proof.Machine.execUpCvProgDirect opc addr data s
  | .upCvReadDirect opc addr => Sys2Proof.Machine.execUpCvReadDirect opc addr s
  | .upFwVer opc => Sys2Proof.Machine.execUpFwVer opc s
  | .upAccCtrl opc addr op data => Sys2Proof.Machine.execUpAccCtrl opc addr op data s
  | .upOpsLoco opc addr cv data => Sys2Proof.Machine.execUpOpsLoco opc addr cv data s
  | .upOpsAcc opc addr cv data => Sys2Proof.Machine.execUpOpsAcc opc addr cv data s
  | .upUnsupported opc rest => Sys2Proof.Machine.execUpUnsupported opc rest s
  | .upOutOfRange b => Sys2Proof.Machine.execUpOutOfRange b s
  | .ibLcdText0 opc text => Sys2Proof.Machine.execIbLcdText0 opc text s
  | .ibLcdText1 opc text => Sys2Proof.Machine.execIbLcdText1 opc text s
  | .ibLcdText2 opc text => Sys2Proof.Machine.execIbLcdText2 opc text s
  | .ibLcdText3 opc text => Sys2Proof.Machine.execIbLcdText3 opc text s
  | .ibCursorMove opc p => Sys2Proof.Machine.execIbCursorMove opc p s
  | .ibTtyAdv opc ch => Sys2Proof.Machine.execIbTtyAdv opc ch s
  | .ibTtyNoadv opc ch => Sys2Proof.Machine.execIbTtyNoadv opc ch s
  | .ibHome opc => Sys2Proof.Machine.execIbHome opc s
  | .ibClear opc => Sys2Proof.Machine.execIbClear opc s
  | .ibCursorOff opc => Sys2Proof.Machine.execIbCursorOff opc s
  | .ibCursorOn opc => Sys2Proof.Machine.execIbCursorOn opc s
  | .ibDispRight opc => Sys2Proof.Machine.execIbDispRight opc s
  | .ibCabTypeQuery opc => Sys2Proof.Machine.execIbCabTypeQuery opc s
  | .ibFcTime opc text => Sys2Proof.Machine.execIbFcTime opc text s
  | .ibFcRate opc r => Sys2Proof.Machine.execIbFcRate opc r s
  | .ibUnknown m b => Sys2Proof.Machine.execIbUnknown m b s
  | .ibIgnored b => Sys2Proof.Machine.execIbIgnored b s
  | .cfgCabType a => Sys2Proof.Machine.execCfgCabType a s
  | .cfgCabAddr a => Sys2Proof.Machine.execCfgCabAddr a s
  | .cfgSpeed a => Sys2Proof.Machine.execCfgSpeed a s
  | .cfgKey a => Sys2Proof.Machine.execCfgKey a s
  | .cfgAiu a => Sys2Proof.Machine.execCfgAiu a s
  | .cfgAiuBit0 a => Sys2Proof.Machine.execCfgAiuBit0 a s
  | .cfgAiuBit1 a => Sys2Proof.Machine.execCfgAiuBit1 a s
  | .cfgAiuBit2 a => Sys2Proof.Machine.execCfgAiuBit2 a s
  | .cfgAiuBit3 a => Sys2Proof.Machine.execCfgAiuBit3 a s
  | .cfgAiuBit4 a => Sys2Proof.Machine.execCfgAiuBit4 a s
  | .cfgAiuBit5 a => Sys2Proof.Machine.execCfgAiuBit5 a s
  | .cfgAiuBit6 a => Sys2Proof.Machine.execCfgAiuBit6 a s
  | .cfgAiuBit7 a => Sys2Proof.Machine.execCfgAiuBit7 a s
  | .cfgAiuBit8 a => Sys2Proof.Machine.execCfgAiuBit8 a s
  | .cfgAiuBit9 a => Sys2Proof.Machine.execCfgAiuBit9 a s
  | .cfgAiuBit10 a => Sys2Proof.Machine.execCfgAiuBit10 a s
  | .cfgAiuBit11 a => Sys2Proof.Machine.execCfgAiuBit11 a s
  | .cfgAiuBit12 a => Sys2Proof.Machine.execCfgAiuBit12 a s
  | .cfgAiuBit13 a => Sys2Proof.Machine.execCfgAiuBit13 a s
  | .cfgCabState a => Sys2Proof.Machine.execCfgCabState a s
  | .cfgRead reg => Sys2Proof.Machine.execCfgRead reg s
  | .cfgWrite reg v => Sys2Proof.Machine.execCfgWrite reg v s
  | .reset => Sys2Proof.Machine.execReset s

end Sys2Proof.Machine
end

