-- ==== Sys2Proof/Machine/Feed.lean ====
section
/-! DEFINITION. The three port machines that assemble bytes into units and hand each completed unit to the decoder:
the upstream command assembler (rules R110 to R113), the poll/command machine (rules R151, R156 to R159) and the
reply assembler (rules R190 to R193); the bus byte (rule R150); what one input transaction does; and the placing of
a unit before the ports. -/

namespace Sys2Proof.Machine

/-- What a machine holds after one byte. `more`: the byte is stored and the unit is not complete. `single`: the byte
is a unit by itself and nothing is stored. `complete`: the byte is stored and its unit is complete. -/
inductive Fetch where
  | more (s : State)
  | single (w : Wire) (s : State)
  | complete (w : Wire) (s : State)
  | stop (f : Fault)
deriving DecidableEq, Repr

/-- A next state goes on with `f`; a fault or a refusal ends. -/
def andThen (r : Result) (f : State → Result) : Result :=
  match r with
  | .next s => f s
  | .fault x => .fault x
  | .refused x => .refused x

/-- Decodes a unit and runs it. A completed command of class NONE has no effect (rule R177). -/
def runUnit (w : Wire) (s : State) : Result :=
  match decode s.cfg w with
  | .ok i => exec i s
  | .error .noClass => .next s
  | .error e => .fault (.badUnit e)

/-- Runs what a machine holds, with `clear` after a unit that was assembled in its buffer. -/
def runFetch (clear : State → State) (x : Fetch) : Result :=
  match x with
  | .more s => .next s
  | .single w s => runUnit w s
  | .complete w s => andThen (runUnit w s) (fun t => .next (clear t))
  | .stop f => .fault f

/-! ### Upstream command assembler -/

/-- The first byte of a packet latches the length (rule R111). -/
def uaLatch (b : Byte) (s : State) : State :=
  if s.uaCnt = 0 then { s with uaLen := upPacketLen s.cfg.up b } else s

/-- The byte is stored and counted (rule R112). -/
def uaStore (b : Byte) (s : State) : State :=
  { s with uaBuf := memWrite s.uaBuf s.uaCnt.toNat b, uaCnt := s.uaCnt + 1 }

/-- The bytes of the packet, `ua_buf[0 .. ua_len-1]` (rule R113). -/
def uaPacket (s : State) : List Byte := memSlice s.uaBuf s.uaLen.toNat

/-- `UP_FEED(b)` up to the translation (rule R110). -/
def upFetch (b : Byte) (s : State) : Fetch :=
  let s1 := uaLatch b s
  if s1.uaCnt.toNat < uaBufSize then
    let s2 := uaStore b s1
    if s2.uaCnt = s2.uaLen then .complete (.up (uaPacket s2)) s2 else .more s2
  else .stop (.bufferOverrun .ua)

/-- `UP_FEED(b)` (rule R110). -/
def upFeed (b : Byte) (s : State) : Result := runFetch uaClear (upFetch b s)

/-! ### Poll/command machine -/

/-- The table in force (rule R70). -/
def ibModeOf (c : CabState) : IbMode :=
  match c with
  | .execBroadcastCmd => .broadcast
  | _ => .addressed

/-- The first byte of a command latches the length (rule R156). -/
def ibLatch (b : Byte) (s : State) : State :=
  if s.ibCnt = 0 then { s with ibLen := ibLen s.cfg.ib (ibModeOf s.cabState) b } else s

/-- The byte is adjusted, stored and counted (rule R156). -/
def ibStore (b : Byte) (s : State) : State :=
  { s with
    ibBuf := memWrite s.ibBuf s.ibCnt.toNat (storedByte s.cfg.ib s.ibCnt.toNat b)
    ibCnt := s.ibCnt + 1 }

/-- The bytes of the command, `ib_buf[0 .. ib_len-1]` (rule R157). -/
def ibFrame (s : State) : List Byte := memSlice s.ibBuf s.ibLen.toNat

/-- Is `b` a unit by itself to the poll/command machine: a poll byte (rule R151), a byte ignored (rule R159), or a
byte that is no opcode (rule R158)? -/
def pcSingle (b : Byte) (s : State) : Bool :=
  isPoll b || !executing s.cabState || (s.ibCnt == 0 && ibLen s.cfg.ib (ibModeOf s.cabState) b == 0)

/-- `PC_FEED(b)` up to the reaction or dispatch (rules R151, R156 to R159). -/
def pcFetch (b : Byte) (s : State) : Fetch :=
  if pcSingle b s then .single (.pc s.cabState [b]) s
  else
    let s1 := ibLatch b s
    if s1.ibCnt.toNat < ibBufSize then
      let s2 := ibStore b s1
      if s2.ibCnt = s2.ibLen then .complete (.pc s2.cabState (ibFrame s2)) s2 else .more s2
    else .stop (.bufferOverrun .ib)

/-- `PC_FEED(b)`. -/
def pcFeed (b : Byte) (s : State) : Result := runFetch ibClear (pcFetch b s)

/-! ### Reply assembler -/

/-- A lead byte starts a reply of the declared size (rule R190). -/
def raStart (n : BitVec 3) (s : State) : State := { s with raSize := n, raActive := true, raCnt := 0 }

/-- The byte is stored and counted (rule R190). -/
def raStore (b : Byte) (s : State) : State :=
  { s with raBuf := memWrite s.raBuf s.raCnt.toNat b, raCnt := s.raCnt + 1 }

/-- The bytes of the reply, `ra_buf[0 .. ra_size-1]` (rule R192). -/
def raFrame (s : State) : List Byte := memSlice s.raBuf s.raSize.toNat

/-- The store and the test of completion, while a reply is assembled (rules R190, R192, R193). -/
def raTake (b : Byte) (s : State) : Fetch :=
  if s.raCnt.toNat < raBufSize then
    let s2 := raStore b s
    if s2.raCnt = s2.raSize then .complete (.ra (raFrame s2)) s2 else .more s2
  else .stop (.bufferOverrun .ra)

/-- `RA_FEED(b)` up to the decoding (rule R190). -/
def raFetch (b : Byte) (s : State) : Fetch :=
  if s.raActive then raTake b s
  else
    match raSizeOf b with
    | some n => raTake b (raStart n s)
    | none => .single (.ra [b]) s

/-- `RA_FEED(b)`. -/
def raFeed (b : Byte) (s : State) : Result := runFetch raClear (raFetch b s)

/-! ### Input transactions -/

/-- `BUS_FEED(b, route_pc, route_ra)` (rule R150). -/
def busFeed (b : Byte) (routePc routeRa : Bool) (s : State) : Result :=
  andThen (if routePc then pcFeed b s else .next s)
    (fun t => if routeRa then raFeed b t else .next t)

/-- What one input transaction does (spec/00_scope.md section 5). -/
def consume (x : Input) (s : State) : Result :=
  match x with
  | .upByte b => upFeed b s
  | .busByte b routePc routeRa => busFeed b routePc routeRa s
  | .cfgRead reg => runUnit (.hostRead reg) s
  | .cfgWrite reg v => runUnit (.hostWrite reg v) s
  | .reset => runUnit .rst s

/-- One step: the oldest transaction presented is consumed, whole (rule R45). With none presented nothing happens
(rule R244; log entry 7). -/
def stepOnce (s : State) : Result :=
  if s.cfg.wellFormed then
    match s.inputs with
    | [] => .next s
    | x :: rest => consume x { s with inputs := rest }
  else .refused .illFormedCfg

/-! ### Placing a unit before the ports -/

/-- Presents one more transaction, to be consumed first. -/
def present (x : Input) (s : State) : State := { s with inputs := x :: s.inputs }

/-- The last byte of a unit. -/
def lastByte (p : List Byte) : Byte := p.getLastD 0

/-- Places a wire unit so that the very next step completes and runs it: all its bytes but the last are in the
buffer of its machine, and the last one is presented on its port (log entry 8). A bus byte is routed to its own
machine only. -/
def placeWire (w : Wire) (s : State) : State :=
  match w with
  | .up p =>
    present (.upByte (lastByte p))
      (if p.length ≤ 1 then { s with uaCnt := 0 }
       else
        { s with
          uaBuf := memWriteList s.uaBuf 0 p.dropLast
          uaLen := BitVec.ofNat 4 p.length
          uaCnt := BitVec.ofNat 4 (p.length - 1) })
  | .pc m q =>
    present (.busByte (lastByte q) true false)
      (if isPoll (q.headD 0) then s
       else if q.length ≤ 1 then { s with cabState := m, ibCnt := 0 }
       else
        { s with
          cabState := m
          ibBuf := memWriteList s.ibBuf 0 q.dropLast
          ibLen := BitVec.ofNat 4 q.length
          ibCnt := BitVec.ofNat 4 (q.length - 1) })
  | .ra r =>
    present (.busByte (lastByte r) false true)
      (if r.length ≤ 1 then { s with raActive := false, raCnt := 0 }
       else
        { s with
          raActive := true
          raBuf := memWriteList s.raBuf 0 r.dropLast
          raSize := BitVec.ofNat 3 r.length
          raCnt := BitVec.ofNat 3 (r.length - 1) })
  | .hostRead reg => present (.cfgRead reg) s
  | .hostWrite reg v => present (.cfgWrite reg v) s
  | .rst => present .reset s

end Sys2Proof.Machine
end

