-- ==== Sys2Proof/Machine/Step.lean ====
section
/-! DEFINITION. The step function and the placing of a word of the unit table where the next step takes it. Both
only call Machine/Feed.lean and Decode.lean. -/

namespace Sys2Proof.Machine

/-- One step of the framer: one input transaction (rules R45, R47). -/
def step (s : State) : Host.Outcome State Fault Refusal := stepOnce s

/-- `s` with the unit of the table word `w` placed so that the next step runs it (log entry 8). -/
def State.withFetchWord (s : State) (nbits w : Nat) : State := placeWire (tableWire s.cfg nbits w) s

end Sys2Proof.Machine
end

