-- ==== Sys2Proof/Safety.lean ====
section
/-! DEFINITION. What a sound state of the framer is: the invariants that spec/10_state.md gives at every step
boundary, and what a step may not do. -/

namespace Sys2Proof.Machine

/-- The upstream assembler's invariant (rules R10, R11, R49): empty, or inside a packet of the length its opcode has
in the table. -/
def uaSound (s : State) : Prop :=
  s.uaCnt = 0 ∨
    (s.uaCnt < s.uaLen ∧ s.uaLen ≤ 11 ∧ s.uaLen = upPacketLen s.cfg.up (memRead s.uaBuf 0))

/-- A staging slot's invariant (rules R13, R14): empty, or pending with a right checksum. -/
def slotSound (t : TxSlot) : Prop :=
  t.cnt = 0 ∨
    (t.cnt = 5 ∧
      memRead t.buf 4 = xor4 (memRead t.buf 0) (memRead t.buf 1) (memRead t.buf 2) (memRead t.buf 3))

/-- Slot 1 is pending only together with slot 0 (rule R14: it was staged by the same command). -/
def slotsOrdered (s : State) : Prop := s.tx1.cnt = 5 → s.tx0.cnt = 5

/-- The inbound buffer's invariant (rules R16, R49): empty, or inside a command of the length its opcode has in the
table in force, in a state that accepts commands. -/
def ibSound (s : State) : Prop :=
  s.ibCnt = 0 ∨
    (s.ibCnt < s.ibLen ∧ s.ibLen ≤ 9 ∧ executing s.cabState = true ∧
      isPoll (memRead s.ibBuf 0) = false ∧
      s.ibLen = ibLen s.cfg.ib (ibModeOf s.cabState) (memRead s.ibBuf 0))

/-- The reply assembler's invariant (rule R18). -/
def raSound (s : State) : Prop :=
  (s.raActive = false ∧ s.raCnt = 0) ∨
    (s.raActive = true ∧ 1 ≤ s.raCnt ∧ s.raCnt < s.raSize ∧
      raSizeOf (memRead s.raBuf 0) = some s.raSize)

/-- Every buffer keeps its canonical form and its size (rule R40). -/
def buffersSound (s : State) : Prop :=
  (Memory.wf s.uaBuf = true ∧ memBelow uaBufSize s.uaBuf = true) ∧
  (Memory.wf s.tx0.buf = true ∧ memBelow frameSize s.tx0.buf = true) ∧
  (Memory.wf s.tx1.buf = true ∧ memBelow frameSize s.tx1.buf = true) ∧
  (Memory.wf s.ibBuf = true ∧ memBelow ibBufSize s.ibBuf = true) ∧
  (Memory.wf s.raBuf = true ∧ memBelow raBufSize s.raBuf = true)

/-- The fast-clock cache holds two decimal fields (spec/10_state.md section 1: `fc_hours`, `fc_minutes` in 0..99). -/
def clockSound (s : State) : Prop := s.fcHours ≤ 99 ∧ s.fcMinutes ≤ 99

/-- The invariant of the framer at every step boundary. -/
structure Sound (s : State) : Prop where
  cfg : s.cfg.wellFormed = true
  ua : uaSound s
  tx0 : slotSound s.tx0
  tx1 : slotSound s.tx1
  slots : slotsOrdered s
  ib : ibSound s
  ra : raSound s
  buffers : buffersSound s
  clock : clockSound s

/-- A pending slot with the body `g0..g3` and its checksum (rules R13, R65). -/
def holdsFrame (t : TxSlot) (g0 g1 g2 g3 : Byte) : Prop :=
  t.cnt = 5 ∧ memRead t.buf 0 = g0 ∧ memRead t.buf 1 = g1 ∧ memRead t.buf 2 = g2 ∧ memRead t.buf 3 = g3 ∧
    memRead t.buf 4 = g0 ^^^ g1 ^^^ g2 ^^^ g3

/-- Two slots agree outside the five bytes of a frame. -/
def sameAbove (t u : TxSlot) : Prop := ∀ a, frameSize ≤ a → memRead u.buf a = memRead t.buf a

/-- The packets on `up_tx` after `RSP_OK` is sent, or is not (rules R125 to R130). -/
def withOk (imm : Bool) (s : State) : List (List Byte) :=
  if imm then s.upTx ++ [[s.cfg.rsp.ok]] else s.upTx

/-- `r` is a next state that differs from `s` in this only: slot 0 holds one frame, slot 1 is empty with its bytes
as they were, and `RSP_OK` was sent if `imm` (rule R121). -/
def stagesOne (s : State) (r : Result) (g0 g1 g2 g3 : Byte) (imm : Bool) : Prop :=
  ∃ t, r = .next t ∧ holdsFrame t.tx0 g0 g1 g2 g3 ∧ sameAbove s.tx0 t.tx0 ∧
    t = { s with tx0 := t.tx0, tx1 := { s.tx1 with cnt := 0 }, upTx := withOk imm s }

/-- `r` is a next state that differs from `s` in this only: slot 0 holds the frame `g`, slot 1 the frame `h`, and
`RSP_OK` was sent if `imm` (rule R122). -/
def stagesTwo (s : State) (r : Result) (g0 g1 g2 g3 h0 h1 h2 h3 : Byte) (imm : Bool) : Prop :=
  ∃ t, r = .next t ∧ holdsFrame t.tx0 g0 g1 g2 g3 ∧ holdsFrame t.tx1 h0 h1 h2 h3 ∧
    sameAbove s.tx0 t.tx0 ∧ sameAbove s.tx1 t.tx1 ∧
    t = { s with tx0 := t.tx0, tx1 := t.tx1, upTx := withOk imm s }

/-- `r` is a next state that differs from `s` only in one more packet on `up_tx`. -/
def answersUp (s : State) (r : Result) (p : List Byte) : Prop := r = .next { s with upTx := s.upTx ++ [p] }

/-- `r` is a next state that differs from `s` only in one more event. -/
def raisesEvent (s : State) (r : Result) (e : Event) : Prop := r = .next { s with evt := s.evt ++ [e] }

/-- `r` is a next state that differs from `s` only in one more value returned to the host. -/
def returnsHost (s : State) (r : Result) (v : Word16) : Prop := r = .next { s with hostOut := s.hostOut ++ [v] }

/-- What an ADDR_CTRL command does, in numbers (rules R92, R126, R127): above the limit it answers the range error and
does nothing else; else it stages the short form up to 127 and the long form above. -/
def stagesAddr (s : State) (r : Result) (limit : Nat) (imm : Bool) (addr : Nat) (op data : Byte) : Prop :=
  if limit < addr then answersUp s r [s.cfg.rsp.addrRange]
  else if addr ≤ 127 then stagesOne s r 0x4F (BitVec.ofNat 8 addr) op data imm
  else stagesOne s r (BitVec.ofNat 8 (addr / 128)) (BitVec.ofNat 8 (addr % 128)) op data imm

/-- What a CV command does, in numbers (rules R93, R128, R129). -/
def stagesCv (s : State) (r : Result) (p : CvParams) (addr data : Nat) : Prop :=
  if 0x0FFF < addr then answersUp s r [s.cfg.rsp.cvRange]
  else
    stagesOne s r p.busop (BitVec.ofNat 8 (p.base.toNat + addr / 64)) (BitVec.ofNat 8 (addr % 64 * 2 + data / 128))
      (BitVec.ofNat 8 (data % 128)) p.imm

/-- The two bytes of an address in an outbound frame, in numbers (rule R92). -/
def addrBytes (addr : Nat) : Byte × Byte :=
  if addr ≤ 127 then (0x4F, BitVec.ofNat 8 addr) else (BitVec.ofNat 8 (addr / 128), BitVec.ofNat 8 (addr % 128))

/-- What an OPS command does, in numbers (rules R93, R130, R131, R226). -/
def stagesOps (s : State) (r : Result) (limit : Nat) (p : OpsParams) (addr cv data : Nat) : Prop :=
  if limit < addr then answersUp s r [s.cfg.rsp.addrRange]
  else if 0x0FFF < cv then answersUp s r [s.cfg.rsp.cvRange]
  else
    stagesTwo s r (addrBytes addr).1 (addrBytes addr).2 p.kOp p.kData p.busop
      (BitVec.ofNat 8 (p.base.toNat + cv / 64)) (BitVec.ofNat 8 (cv % 64 * 2 + data / 128))
      (BitVec.ofNat 8 (data % 128)) p.imm

/-- The upstream status byte of a reply's 2-bit status (rules R99, R197). -/
def statusByte (r : RspCfg) (status : Nat) : Byte :=
  if status = 0 then r.ok
  else if status = 1 then r.addrRange
  else if status = 2 then r.cabOpRange
  else r.cvRange

/-- The number of a decimal character; 0 for any other (rule R100). -/
def digitVal (c : Byte) : Nat := if 48 ≤ c.toNat ∧ c.toNat ≤ 57 then c.toNat - 48 else 0

/-- The five bytes of a slot, in the order they are sent (rule R153). -/
def slotBytes (t : TxSlot) : List Byte :=
  [memRead t.buf 0, memRead t.buf 1, memRead t.buf 2, memRead t.buf 3, memRead t.buf 4]

/-- Does the node flush staged frames: is its type LCD, no-LCD or SMART (rule R152)? -/
def flushes (s : State) : Prop :=
  s.cabType = s.cfg.dev.cabTypeLcd ∨ s.cabType = s.cfg.dev.cabTypeNoLcd ∨ s.cabType = s.cfg.dev.cabTypeSmart

/-- The state in which the poll turn of this node begins (rule R151). -/
def addressed (s : State) : State := { s with ibCnt := 0, cabState := .execMyCmd }

/-- The row of the host register `AIU_BIT[n]` (rule R207). -/
def aiuBitInstr (n : Fin 14) (a : HostAccess) : Instr :=
  match n with
  | 0 => .cfgAiuBit0 a
  | 1 => .cfgAiuBit1 a
  | 2 => .cfgAiuBit2 a
  | 3 => .cfgAiuBit3 a
  | 4 => .cfgAiuBit4 a
  | 5 => .cfgAiuBit5 a
  | 6 => .cfgAiuBit6 a
  | 7 => .cfgAiuBit7 a
  | 8 => .cfgAiuBit8 a
  | 9 => .cfgAiuBit9 a
  | 10 => .cfgAiuBit10 a
  | 11 => .cfgAiuBit11 a
  | 12 => .cfgAiuBit12 a
  | 13 => .cfgAiuBit13 a

/-- The framer never stops at `s`: its step answers a next state (rules R225, R244). -/
def stepsOn (s : State) : Prop := ∃ t, step s = .next t

/-- `k` steps, stopping at the first fault or refusal. -/
def runSteps : Nat → State → Result
  | 0, s => .next s
  | k + 1, s => andThen (step s) (runSteps k)

/-- `t` differs from `s` in the reply assembler and `up_tx` only. -/
def replyFrame (s t : State) : Prop :=
  t = { s with raActive := t.raActive, raSize := t.raSize, raCnt := t.raCnt, raBuf := t.raBuf, upTx := t.upTx }

/-- `t` differs from `s` in what the poll/command machine writes only. -/
def pcFrame (s t : State) : Prop :=
  t = { s with
    cabState := t.cabState, ibCnt := t.ibCnt, ibLen := t.ibLen, ibBuf := t.ibBuf,
    tx0 := { s.tx0 with cnt := t.tx0.cnt }, tx1 := { s.tx1 with cnt := t.tx1.cnt }, key := t.key,
    fcHours := t.fcHours, fcMinutes := t.fcMinutes, fcRate := t.fcRate, fcMode := t.fcMode,
    busTx := t.busTx, evt := t.evt }

/-- The bytes, one after the other, at one bus machine: `pcFeed` or `raFeed`. -/
def feedAll (feed : Byte → State → Result) : List Byte → State → Result
  | [], s => .next s
  | b :: rest, s => andThen (feed b s) (feedAll feed rest)

/-- What the other bus machine makes of bytes that are routed to it too (`also`, rule R150); nothing of bytes that are
not. -/
def alsoFeed (also : Bool) (feed : Byte → State → Result) (bytes : List Byte) (s : State) : Result :=
  if also then feedAll feed bytes s else .next s

/-- `a` is an initial part of `b`: an output sequence is only appended to (rule R28). -/
def extendsLog {α : Type} (a b : List α) : Prop := ∃ c, b = a ++ c

/-- Two states agree on the device's own registers that no wire operation writes (rules R19 to R22, R210). -/
def sameIdentity (s t : State) : Prop :=
  t.cabType = s.cabType ∧ t.cabAddr = s.cabAddr ∧ t.aiu = s.aiu ∧ t.speed = s.speed

end Sys2Proof.Machine
end

