-- ==== Sys2Proof/Certificates/Slice0/Obligations.lean ====
section
/-! DEFINITION. The statements about the framer, one `Prop` each. A statement over every state or every
configuration holds in states no run reaches; where it needs the invariant `Sound` it says so. -/

open Sys2Proof Sys2Proof.Machine

/-! ### Codec -/

/-- Rule R90: the checksum is the XOR of the four body bytes, and it is the one byte that makes the XOR of the whole
frame zero. -/
def Obligations.XorChecksumClosesFrame : Prop :=
  ∀ f0 f1 f2 f3 : Byte,
    xor4 f0 f1 f2 f3 = f0 ^^^ f1 ^^^ f2 ^^^ f3 ∧
      ∀ c : Byte, f0 ^^^ f1 ^^^ f2 ^^^ f3 ^^^ c = 0 ↔ c = xor4 f0 f1 f2 f3

/-- Rule R91: the two 7-bit halves of a value, as numbers, and that `JOIN14` rejoins them, the bits from 14 up lost. -/
def Obligations.SevenBitHalvesRejoin : Prop :=
  ∀ v : Word16,
    (lo7 v).toNat = v.toNat % 128 ∧ (hi7 v).toNat = v.toNat / 128 % 128 ∧
      join14 (hi7 v) (lo7 v) = v.setWidth 14

/-- Rule R92: the short form up to 127, the long form above; a legal address's long form never begins with the short
marker, and no two legal addresses have the same two bytes. -/
def Obligations.AddressFormsAreDistinct : Prop :=
  ∀ a : Word16, a.toNat ≤ 9999 →
    (addrEnc a = addrBytes a.toNat) ∧
      (127 < a.toNat → (addrEnc a).1 ≠ 0x4F) ∧
      (∀ b : Word16, b.toNat ≤ 9999 → addrEnc a = addrEnc b → a = b)

/-- Rules R93 and R94: the three bytes of a CV and its data, as numbers; the formulas of the inverse split; and that
the inverse split gives address and data back. -/
def Obligations.CvSplitRoundTrip : Prop :=
  (∀ base aH aL d7 : Byte,
    (cvUnpack base aH aL d7).1.toNat = ((aH - base).toNat * 64 ||| aL.toNat / 2) ∧
      (cvUnpack base aH aL d7).2.toNat = (aL.toNat % 2 * 128 ||| d7.toNat)) ∧
  ∀ (base : Byte) (addr : Word16) (data : Byte), base.toNat + 63 ≤ 255 → addr.toNat ≤ 0x0FFF →
    (cvPack base addr data).1.toNat = base.toNat + addr.toNat / 64 ∧
      (cvPack base addr data).2.1.toNat = addr.toNat % 64 * 2 + data.toNat / 128 ∧
      (cvPack base addr data).2.2.toNat = data.toNat % 128 ∧
      cvUnpack base (cvPack base addr data).1 (cvPack base addr data).2.1 (cvPack base addr data).2.2 = (addr, data)

/-- Rule R95: bit 7 is stripped, and bit 6 too where bit 5 is set; the result is at most 0x5F; adjusting twice is
adjusting once. -/
def Obligations.AsciiAdjustIsIdempotent : Prop :=
  ∀ b : Byte,
    (asciiAdj b).toNat = (if b.toNat / 32 % 2 = 1 then b.toNat % 64 else b.toNat % 128) ∧
      (asciiAdj b).toNat ≤ 0x5F ∧ asciiAdj (asciiAdj b) = asciiAdj b

/-- Rule R100: two characters parse to ten times the first digit plus the second, at most 99; a character that is no
digit counts as 0. -/
def Obligations.DecimalFieldValue : Prop :=
  ∀ c1 c0 : Byte, (dec2 c1 c0).toNat = 10 * digitVal c1 + digitVal c0 ∧ (dec2 c1 c0).toNat ≤ 99

/-- Rule R99: the status is bits 5:4 of byte 1 and maps to the four codes; the map has an entry for 4 that the field
never selects. -/
def Obligations.ReplyStatusMapsToCode : Prop :=
  ∀ (r : RspCfg) (r1 : Byte),
    replyCode r r1 = statusByte r (r1.toNat / 16 % 4) ∧
      statusMap r 0 = r.ok ∧ statusMap r 1 = r.addrRange ∧ statusMap r 2 = r.cabOpRange ∧
      statusMap r 3 = r.cvRange ∧ statusMap r 4 = r.byteCount ∧ (replyStatus r1).toNat ≠ 4

/-! ### The translator -/

/-- Rules R123 and R124: the no-op commands answer one fixed packet, `RSP_OK` alone or with the line terminator, and
change nothing else. -/
def Obligations.NoOpAnswers : Prop :=
  ∀ (s : State) (opc : Byte),
    answersUp s (exec (.upNop opc) s) [s.cfg.rsp.ok] ∧
      answersUp s (exec (.upNopCrlf opc) s) [s.cfg.rsp.ok, s.cfg.rsp.eol0, s.cfg.rsp.eol1]

/-- Rules R133, R134 and R224: an unsupported command and a first byte outside the opcode range answer
`RSP_NOT_SUPPORTED`, whatever data bytes follow, and change nothing else. That an out-of-range byte is answered at all
is the spec's own choice (spec/92_eei_decisions.md D3). -/
def Obligations.UnrecognisedAnswers : Prop :=
  ∀ (s : State) (opc : Byte) (rest : List Byte),
    answersUp s (exec (.upUnsupported opc rest) s) [s.cfg.rsp.notSupported] ∧
      answersUp s (exec (.upOutOfRange opc) s) [s.cfg.rsp.notSupported]

/-- Rule R132: the version query answers the three version bytes of its opcode and changes nothing else. -/
def Obligations.FirmwareVersionAnswer : Prop :=
  ∀ (s : State) (opc v0 v1 v2 : Byte), upClassOf s.cfg.up opc = .fwVer v0 v1 v2 →
    answersUp s (exec (.upFwVer opc) s) [v0, v1, v2]

/-- Rule R125: UP_STATUS and UP_MACRO stage `K0 K1 K2 data`, UP_PROG_ENTER and UP_PROG_EXIT `K0 K1 K2 K3`, each with
its checksum, in slot 0; slot 1 is emptied; `RSP_OK` is sent when `imm` is set; nothing else changes. The layout (D9),
`imm` (D12), and that frames still pending are overwritten and slot 1 emptied (R121, D14; log entry 14, U4), are the
spec's own choices. -/
def Obligations.FixedCommandsStageOneFrame : Prop :=
  ∀ (s : State) (opc data : Byte) (p : FixedParams),
    (upClassOf s.cfg.up opc = .status p →
      stagesOne s (exec (.upStatus opc data) s) p.k0 p.k1 p.k2 data p.imm) ∧
    (upClassOf s.cfg.up opc = .runMacro p →
      stagesOne s (exec (.upMacro opc data) s) p.k0 p.k1 p.k2 data p.imm) ∧
    (upClassOf s.cfg.up opc = .progEnter p →
      stagesOne s (exec (.upProgEnter opc) s) p.k0 p.k1 p.k2 p.k3 p.imm) ∧
    (upClassOf s.cfg.up opc = .progExit p →
      stagesOne s (exec (.upProgExit opc) s) p.k0 p.k1 p.k2 p.k3 p.imm)

/-- Rule R126: locomotive control stages its frame, short up to 127 and long above, or rejects an address above 9999
before anything is staged. The long layout (D8), the unmasked `op` and data (D41), and that frames still pending are
overwritten and slot 1 emptied (R121, D14; log entry 14, U4), are the spec's own choices. -/
def Obligations.LocoControlStagesOrRejects : Prop :=
  ∀ (s : State) (opc : Byte) (addr : Word16) (op data : Byte) (imm : Bool),
    upClassOf s.cfg.up opc = .locoCtrl imm →
      stagesAddr s (exec (.upLocoCtrl opc addr op data) s) 9999 imm addr.toNat op data

/-- Rule R127: accessory control, as locomotive control with the limit 2044. One layout for both (D42), the long layout
(D8), the unmasked `op` and data (D41), and that frames still pending are overwritten and slot 1 emptied (R121, D14;
log entry 14, U4), are the spec's own choices. -/
def Obligations.AccessoryControlStagesOrRejects : Prop :=
  ∀ (s : State) (opc : Byte) (addr : Word16) (op data : Byte) (imm : Bool),
    upClassOf s.cfg.up opc = .accCtrl imm →
      stagesAddr s (exec (.upAccCtrl opc addr op data) s) 2044 imm addr.toNat op data

/-- Rule R128: the four CV commands stage the packed CV and data (a read packs data 0), or reject a CV above 0x0FFF
before anything is staged. The frame's first byte, the data 0 of a read and the range check (D10; log entry 14, U5), and
that frames still pending are overwritten and slot 1 emptied (R121, D14; log entry 14, U4), are the spec's own
choices. -/
def Obligations.CvCommandsStageOrReject : Prop :=
  ∀ (s : State) (opc : Byte) (addr : Word16) (data : Byte) (p : CvParams),
    (upClassOf s.cfg.up opc = .cvProgPaged p →
      stagesCv s (exec (.upCvProgPaged opc addr data) s) p addr.toNat data.toNat) ∧
    (upClassOf s.cfg.up opc = .cvProgDirect p →
      stagesCv s (exec (.upCvProgDirect opc addr data) s) p addr.toNat data.toNat) ∧
    (upClassOf s.cfg.up opc = .cvReadPaged p →
      stagesCv s (exec (.upCvReadPaged opc addr) s) p addr.toNat 0) ∧
    (upClassOf s.cfg.up opc = .cvReadDirect p →
      stagesCv s (exec (.upCvReadDirect opc addr) s) p addr.toNat 0)

/-- Rule R129: the two register commands stage the packed register number and data (a read packs data 0); they never
reject. Register mode as a CV command (D11), the frame's first byte and the data 0 of a read (D10), and that frames
still pending are overwritten and slot 1 emptied (R121, D14; log entry 14, U4), are the spec's own choices. -/
def Obligations.RegisterCommandsStage : Prop :=
  ∀ (s : State) (opc reg data : Byte) (p : CvParams),
    (upClassOf s.cfg.up opc = .regProg p →
      stagesOne s (exec (.upRegProg opc reg data) s) p.busop (BitVec.ofNat 8 (p.base.toNat + reg.toNat / 64))
        (BitVec.ofNat 8 (reg.toNat % 64 * 2 + data.toNat / 128)) (BitVec.ofNat 8 (data.toNat % 128)) p.imm) ∧
    (upClassOf s.cfg.up opc = .regRead p →
      stagesOne s (exec (.upRegRead opc reg) s) p.busop (BitVec.ofNat 8 (p.base.toNat + reg.toNat / 64))
        (BitVec.ofNat 8 (reg.toNat % 64 * 2)) 0 p.imm)

/-- Rules R130 and R226: OPS programming of a locomotive stages the addressing frame and the payload frame, or
rejects the address, or else the CV, before anything is staged. The constants and the order of the checks (D13), the
range check of the CV (D10), the long address layout (D8), and that frames still pending are overwritten (R122, D14;
log entry 14, U4), are the spec's own choices. -/
def Obligations.OpsLocoStagesTwoOrRejects : Prop :=
  ∀ (s : State) (opc : Byte) (addr cv : Word16) (data : Byte) (p : OpsParams),
    upClassOf s.cfg.up opc = .opsLoco p →
      stagesOps s (exec (.upOpsLoco opc addr cv data) s) 9999 p addr.toNat cv.toNat data.toNat

/-- Rules R131 and R226: OPS programming of an accessory, with the limit 2044. The constants and the order of the checks
(D13), the range check of the CV (D10), the long address layout (D8) shared with locomotives (D42), and that frames
still pending are overwritten (R122, D14; log entry 14, U4), are the spec's own choices. -/
def Obligations.OpsAccessoryStagesTwoOrRejects : Prop :=
  ∀ (s : State) (opc : Byte) (addr cv : Word16) (data : Byte) (p : OpsParams),
    upClassOf s.cfg.up opc = .opsAcc p →
      stagesOps s (exec (.upOpsAcc opc addr cv data) s) 2044 p addr.toNat cv.toNat data.toNat

/-- Rule R135: a decoded upstream packet emits at most one packet and leaves the slots as they were, or stages sound
frames and then sends nothing but `RSP_OK`; nothing else changes. -/
def Obligations.TranslatorStagesSoundFrames : Prop :=
  ∀ (c : Cfg) (s t : State) (p : List Byte) (i : Instr), decode c (.up p) = .ok i → exec i s = .next t →
    t = { s with tx0 := t.tx0, tx1 := t.tx1, upTx := t.upTx } ∧
      ((t.tx0 = s.tx0 ∧ t.tx1 = s.tx1 ∧ ∃ q, t.upTx = s.upTx ++ [q]) ∨
        (t.tx0.cnt = 5 ∧ slotSound t.tx0 ∧ slotSound t.tx1 ∧ ∃ imm, t.upTx = withOk imm s))

/-! ### The poll turn -/

/-- Rules R151 and R160: the state after a poll byte depends on the byte and `cab_addr` alone, the inbound buffer is
emptied, and a poll that is not this node's changes nothing else. A node whose address is 0 is never addressed. -/
def Obligations.PollByteSelectsState : Prop :=
  ∀ (s : State) (a : BitVec 6),
    (a = 0 → exec (.poll a) s = .next { s with ibCnt := 0, cabState := .execBroadcastCmd }) ∧
      (a ≠ 0 → a ≠ s.cabAddr → exec (.poll a) s = .next { s with ibCnt := 0, cabState := .pingOther }) ∧
      (a ≠ 0 → a = s.cabAddr → ∃ t, exec (.poll a) s = .next t ∧ t.cabState = .execMyCmd ∧ t.ibCnt = 0 ∧
        t.tx0.buf = s.tx0.buf ∧ t.tx1.buf = s.tx1.buf ∧
        t = { s with ibCnt := 0, cabState := .execMyCmd, key := t.key, tx0 := t.tx0, tx1 := t.tx1, busTx := t.busTx })

/-- Rules R152 and R153: polled with frames staged, an LCD, no-LCD or SMART node sends them, slot 0 first, and empties
both slots; nothing else changes but the poll state and the inbound buffer's count (R151). That the reaction runs on
every poll byte of this node, also in EXEC_MY_CMD, is the spec's own choice (D18). -/
def Obligations.PollTurnFlushesStagedFrames : Prop :=
  ∀ (s : State) (a : BitVec 6), a ≠ 0 → a = s.cabAddr → flushes s → (s.tx0.cnt ≠ 0 ∨ s.tx1.cnt ≠ 0) →
    exec (.poll a) s = .next
      { addressed s with
        busTx := s.busTx ++ (if s.tx0.cnt = 0 then [] else [slotBytes s.tx0]) ++
          (if s.tx1.cnt = 0 then [] else [slotBytes s.tx1])
        tx0 := { s.tx0 with cnt := 0 }
        tx1 := { s.tx1 with cnt := 0 } }

/-- Rules R152, R154 and R155: polled with nothing staged, an LCD or no-LCD node sends `[key, speed]` and forgets the
key, a SMART node sends nothing; an AIU node sends the two halves of `aiu`, low half first, whatever is staged; a
node of any other type sends nothing. -/
def Obligations.PollTurnWithoutFlush : Prop :=
  ∀ (s : State) (a : BitVec 6), a ≠ 0 → a = s.cabAddr →
    (flushes s → s.tx0.cnt = 0 → s.tx1.cnt = 0 → s.cabType ≠ s.cfg.dev.cabTypeSmart →
      exec (.poll a) s = .next
        { addressed s with
          busTx := s.busTx ++ [[BitVec.ofNat 8 s.key.toNat, BitVec.ofNat 8 s.speed.toNat]]
          key := s.cfg.dev.noKey }) ∧
    (flushes s → s.tx0.cnt = 0 → s.tx1.cnt = 0 → s.cabType = s.cfg.dev.cabTypeSmart →
      exec (.poll a) s = .next (addressed s)) ∧
    (¬ flushes s → s.cabType = s.cfg.dev.cabTypeAiu →
      exec (.poll a) s = .next
        { addressed s with
          busTx := s.busTx ++ [[BitVec.ofNat 8 (s.aiu.toNat % 128), BitVec.ofNat 8 (s.aiu.toNat / 128)]] }) ∧
    (¬ flushes s → s.cabType ≠ s.cfg.dev.cabTypeAiu → exec (.poll a) s = .next (addressed s))

/-- Rules R46 and R155 (property S4): polling an AIU node again sends the same packet again and changes nothing but
the output. -/
def Obligations.AiuPollIsIdempotent : Prop :=
  ∀ (s : State) (a : BitVec 6), s.cfg.wellFormed = true → a ≠ 0 → a = s.cabAddr →
    s.cabType = s.cfg.dev.cabTypeAiu →
      ∃ t p, exec (.poll a) s = .next t ∧ t.busTx = s.busTx ++ [p] ∧ t.aiu = s.aiu ∧
        exec (.poll a) t = .next { t with busTx := t.busTx ++ [p] }

/-- Rules R23 and R154: a key is reported once. A second poll of an LCD or no-LCD node with nothing staged sends
`NO_KEY` and the same speed. -/
def Obligations.KeyIsReportedOnce : Prop :=
  ∀ (s : State) (a : BitVec 6), a ≠ 0 → a = s.cabAddr → flushes s → s.cabType ≠ s.cfg.dev.cabTypeSmart →
    s.tx0.cnt = 0 → s.tx1.cnt = 0 →
      ∃ t u, exec (.poll a) s = .next t ∧ exec (.poll a) t = .next u ∧ u.speed = s.speed ∧
        u.busTx = s.busTx ++ [[s.key.setWidth 8, s.speed.setWidth 8]] ++
          [[s.cfg.dev.noKey.setWidth 8, s.speed.setWidth 8]]

/-- Rules R48, R152 and R153: staged frames are sent in one poll turn and not again, at every node that flushes: the next
poll of a SMART node sends nothing, and that of an LCD or no-LCD node sends `[key, speed]` and no frame. That the
reaction runs on every poll of this node is the spec's own choice (D18). -/
def Obligations.FlushedFramesAreNotSentAgain : Prop :=
  ∀ (s : State) (a : BitVec 6), a ≠ 0 → a = s.cabAddr → flushes s → (s.tx0.cnt ≠ 0 ∨ s.tx1.cnt ≠ 0) →
    ∃ t, exec (.poll a) s = .next t ∧ t.busTx ≠ s.busTx ∧ t.tx0.cnt = 0 ∧ t.tx1.cnt = 0 ∧
      exec (.poll a) t =
        .next (if s.cabType = s.cfg.dev.cabTypeSmart then t
          else
            { t with
              busTx := t.busTx ++ [[BitVec.ofNat 8 s.key.toNat, BitVec.ofNat 8 s.speed.toNat]]
              key := s.cfg.dev.noKey })

/-! ### Replies -/

/-- Rules R194, R195, R196 (with R96 to R99): the values of each reply as numbers, most significant fragment first,
then the mapped status; nothing else changes, whatever the status is. -/
def Obligations.ReplyPacketsCarryValuesThenStatus : Prop :=
  ∀ (s : State) (r1 r2 r3 r4 r5 r6 : Byte),
    answersUp s (exec (.replyD8 r1 r2) s)
      [BitVec.ofNat 8 (r1.toNat % 4 * 64 + r2.toNat % 64), statusByte s.cfg.rsp (r1.toNat / 16 % 4)] ∧
    answersUp s (exec (.replyD9 r1 r2 r3) s)
      [BitVec.ofNat 8 (r1.toNat % 16 * 16 + r2.toNat / 4 % 16), BitVec.ofNat 8 (r2.toNat % 4 * 64 + r3.toNat % 64),
        statusByte s.cfg.rsp (r1.toNat / 16 % 4)] ∧
    answersUp s (exec (.replyDA r1 r2 r3 r4 r5 r6) s)
      [BitVec.ofNat 8 (r1.toNat % 4 * 64 + r2.toNat % 64), BitVec.ofNat 8 (r3.toNat % 64 * 4 + r4.toNat / 16 % 4),
        BitVec.ofNat 8 (r4.toNat % 16 * 16 + r5.toNat / 4 % 16), BitVec.ofNat 8 (r5.toNat % 4 * 64 + r6.toNat % 64),
        statusByte s.cfg.rsp (r1.toNat / 16 % 4)]

/-- Rule R67: the bits of a reply that no field names do not matter. Which bits these are follows from the bit positions
of the fields, the spec's own choices (D31, D32); the source is silent on the others (spec/93 U9). -/
def Obligations.ReplyIgnoresUnnamedBits : Prop :=
  ∀ (s : State) (r1 r2 q1 q2 x3 x4 x5 x6 y3 y4 y5 y6 : Byte),
    r1.toNat / 16 % 4 = q1.toNat / 16 % 4 → r1.toNat % 4 = q1.toNat % 4 → r2.toNat % 64 = q2.toNat % 64 →
    x3.toNat % 64 = y3.toNat % 64 → x4.toNat % 64 = y4.toNat % 64 → x5.toNat % 64 = y5.toNat % 64 →
    x6.toNat % 64 = y6.toNat % 64 →
      exec (.replyD8 r1 r2) s = exec (.replyD8 q1 q2) s ∧
        exec (.replyDA r1 r2 x3 x4 x5 x6) s = exec (.replyDA q1 q2 y3 y4 y5 y6) s ∧
        (r1.toNat % 64 = q1.toNat % 64 → exec (.replyD9 r1 r2 x3) s = exec (.replyD9 q1 q2 y3) s)

/-! ### Inbound commands -/

/-- Rule R172: the four text-block commands raise one LCDUpdate event with the column and row of the opcode's low two
bits and the eight bytes as stored; nothing else changes. -/
def Obligations.TextBlocksRaiseUpdate : Prop :=
  ∀ (s : State) (opc : Byte) (text : List Byte),
    let e := Event.lcdUpdate (BitVec.ofNat 8 (opc.toNat % 2 * 8)) (BitVec.ofNat 8 (opc.toNat / 2 % 2)) text 8
    raisesEvent s (exec (.ibLcdText0 opc text) s) e ∧ raisesEvent s (exec (.ibLcdText1 opc text) s) e ∧
      raisesEvent s (exec (.ibLcdText2 opc text) s) e ∧ raisesEvent s (exec (.ibLcdText3 opc text) s) e

/-- Rules R173 and R174: each cursor-mode command raises exactly one event, of its own mode; each teletype command
raises one event with the character as stored and its own `advance`; nothing else changes. -/
def Obligations.CursorModesAndTeletypeRaiseOneEvent : Prop :=
  ∀ (s : State) (opc ch : Byte),
    raisesEvent s (exec (.ibHome opc) s) (.lcdCursorMode .home) ∧
      raisesEvent s (exec (.ibClear opc) s) (.lcdCursorMode .clear) ∧
      raisesEvent s (exec (.ibCursorOff opc) s) (.lcdCursorMode .cursorOff) ∧
      raisesEvent s (exec (.ibCursorOn opc) s) (.lcdCursorMode .cursorOn) ∧
      raisesEvent s (exec (.ibDispRight opc) s) (.lcdCursorMode .dispRight) ∧
      raisesEvent s (exec (.ibTtyAdv opc ch) s) (.lcdPrintChar ch true) ∧
      raisesEvent s (exec (.ibTtyNoadv opc ch) s) (.lcdPrintChar ch false) ∧
      (cursorModeCode .home, cursorModeCode .clear, cursorModeCode .cursorOff, cursorModeCode .cursorOn,
        cursorModeCode .dispRight) = (0, 1, 2, 3, 4)

/-- Rule R176: a cursor move raises one event with the decoded position; the decoding of a configuration that lists no
difference is `(p[3:0], p[5:4])`, the spec's placeholder (D27). That a column and a row are 8 bits wide is the model's
choice (log entry 19). -/
def Obligations.CursorMoveRaisesDecodedPosition : Prop :=
  ∀ (s : State) (opc p : Byte),
    raisesEvent s (exec (.ibCursorMove opc p) s)
        (.lcdMoveCursor (cursorDecode s.cfg.ib p).1 (cursorDecode s.cfg.ib p).2) ∧
      (s.cfg.ib.cursorTable = [] →
        raisesEvent s (exec (.ibCursorMove opc p) s)
          (.lcdMoveCursor (BitVec.ofNat 8 (p.toNat % 16)) (BitVec.ofNat 8 (p.toNat / 16 % 4))))

/-- Rule R171: the cab-type query sends the one byte `cab_type` and changes nothing else. -/
def Obligations.CabTypeQueryAnswers : Prop :=
  ∀ (s : State) (opc : Byte), exec (.ibCabTypeQuery opc) s = .next { s with busTx := s.busTx ++ [[s.cabType]] }

/-- Rule R178: the time broadcast parses hours, minutes and mode at the configured positions, updates the cache, and
raises one event exactly when the cached rate is not 0; nothing else changes. -/
def Obligations.FastClockTimeUpdatesCache : Prop :=
  ∀ (s : State) (opc : Byte) (text : List Byte),
    let q : Nat → Byte := fun i => (opc :: text).getD i 0
    let hours := BitVec.ofNat 8 (10 * digitVal (q s.cfg.ib.fcHPos) + digitVal (q (s.cfg.ib.fcHPos + 1)))
    let minutes := BitVec.ofNat 8 (10 * digitVal (q s.cfg.ib.fcMPos) + digitVal (q (s.cfg.ib.fcMPos + 1)))
    let mode := if q s.cfg.ib.fcModePos = 0x41 then FcMode.am
      else if q s.cfg.ib.fcModePos = 0x50 then FcMode.pm else FcMode.h24
    exec (.ibFcTime opc text) s = .next
      { s with
        fcHours := hours, fcMinutes := minutes, fcMode := mode
        evt := if s.fcRate = 0 then s.evt else s.evt ++ [.fastClock hours minutes s.fcRate mode] }

/-- Rule R179: the rate broadcast takes the low 6 bits; the same rate does nothing; a changed rate is cached, and
raises one event when a clock mode is established and the rate is not 0. -/
def Obligations.FastClockRateUpdatesOnChange : Prop :=
  ∀ (s : State) (opc r : Byte),
    let rate := BitVec.ofNat 8 (r.toNat % 64)
    (rate = s.fcRate → exec (.ibFcRate opc r) s = .next s) ∧
      (rate ≠ s.fcRate → s.fcMode ≠ .none ∧ rate ≠ 0 →
        exec (.ibFcRate opc r) s = .next
          { s with fcRate := rate, evt := s.evt ++ [.fastClock s.fcHours s.fcMinutes rate s.fcMode] }) ∧
      (rate ≠ s.fcRate → ¬ (s.fcMode ≠ .none ∧ rate ≠ 0) →
        exec (.ibFcRate opc r) s = .next { s with fcRate := rate })

/-- Rules R158, R159, R191: a byte that is no opcode in the mode in force, a byte between polls of others, and a byte
that is no lead byte change nothing. -/
def Obligations.UnmatchedBytesChangeNothing : Prop :=
  ∀ (s : State) (m : IbMode) (b : Byte),
    exec (.ibUnknown m b) s = .next s ∧ exec (.ibIgnored b) s = .next s ∧ exec (.replyNone b) s = .next s

/-! ### Host port -/

/-- Rules R201, R203 to R208: a read of each named register returns its value, zero-extended, and changes nothing
else. -/
def Obligations.HostReadsReturnRegister : Prop :=
  ∀ (s : State) (n : Fin 14),
    returnsHost s (exec (.cfgCabType .read) s) (BitVec.ofNat 16 s.cabType.toNat) ∧
      returnsHost s (exec (.cfgCabAddr .read) s) (BitVec.ofNat 16 s.cabAddr.toNat) ∧
      returnsHost s (exec (.cfgSpeed .read) s) (BitVec.ofNat 16 s.speed.toNat) ∧
      returnsHost s (exec (.cfgKey .read) s) (BitVec.ofNat 16 s.key.toNat) ∧
      returnsHost s (exec (.cfgAiu .read) s) (BitVec.ofNat 16 s.aiu.toNat) ∧
      returnsHost s (exec (aiuBitInstr n .read) s) (if s.aiu.getLsbD n.val then 1 else 0) ∧
      returnsHost s (exec (.cfgCabState .read) s)
        (match s.cabState with
          | .unknown => 0
          | .pingOther => 1
          | .execMyCmd => 2
          | .execBroadcastCmd => 3)

/-- Rules R202 to R208: a write of each named register stores the value truncated to the register's width and changes
nothing else; a write of CAB_STATE is ignored. -/
def Obligations.HostWritesTruncate : Prop :=
  ∀ (s : State) (v : Word16),
    exec (.cfgCabType (.write v)) s = .next { s with cabType := BitVec.ofNat 8 v.toNat } ∧
      exec (.cfgCabAddr (.write v)) s = .next { s with cabAddr := BitVec.ofNat 6 v.toNat } ∧
      exec (.cfgSpeed (.write v)) s = .next { s with speed := BitVec.ofNat 7 v.toNat } ∧
      exec (.cfgKey (.write v)) s = .next { s with key := BitVec.ofNat 7 v.toNat } ∧
      exec (.cfgAiu (.write v)) s = .next { s with aiu := BitVec.ofNat 14 v.toNat } ∧
      exec (.cfgCabState (.write v)) s = .next s

/-- Rule R207: a write of AIU_BIT[n] sets bit n of `aiu` to v[0]; the other 13 bits and everything else stay. -/
def Obligations.AiuBitWriteSetsOneBit : Prop :=
  ∀ (s : State) (n : Fin 14) (v : Word16),
    ∃ t, exec (aiuBitInstr n (.write v)) s = .next t ∧ t = { s with aiu := t.aiu } ∧
      ∀ j, j < 14 → t.aiu.getLsbD j = if j = n.val then v.getLsbD 0 else s.aiu.getLsbD j

/-- Rules R201 and R202: the generic accesses do what the named register's row does on a mapped number; on an unmapped
number a read returns 0 and a write is ignored. -/
def Obligations.GenericAccessFollowsRegisterMap : Prop :=
  ∀ (s : State) (reg : Byte) (v : Word16),
    (20 ≤ reg.toNat → returnsHost s (exec (.cfgRead reg) s) 0 ∧ exec (.cfgWrite reg v) s = .next s) ∧
      (reg.toNat < 20 → ∃ i j, hostRegInstr .read reg = some i ∧ hostRegInstr (.write v) reg = some j ∧
        exec (.cfgRead reg) s = exec i s ∧ exec (.cfgWrite reg v) s = exec j s)

/-! ### Reset -/

/-- Rule R240: RESET puts every register of the table at its value and emits nothing. The configuration, what has been
presented and what has been emitted stay. The state before the first step of a run is such a state: a RESET leaves
it as it is. Most values of the table are the spec's own choices (D35); the configuration and the presented
transactions kept are log entry 13; that a RESET leaves `State.reset` as it is rests on log entries 1 and 2. -/
def Obligations.ResetStepRestoresTable : Prop :=
  exec .reset State.reset = .next State.reset ∧ ∀ s : State, ∃ t, exec .reset s = .next t ∧
    t.uaCnt = 0 ∧ t.tx0.cnt = 0 ∧ t.tx1.cnt = 0 ∧ t.cabState = .unknown ∧ t.ibCnt = 0 ∧ t.raActive = false ∧
    t.raCnt = 0 ∧ t.cabType = s.cfg.dev.cabTypeUnknown ∧ t.cabAddr = 0 ∧ t.aiu = 0 ∧ t.speed = 127 ∧
    t.key = s.cfg.dev.noKey ∧ t.fcHours = 0 ∧ t.fcMinutes = 0 ∧ t.fcRate = 0 ∧ t.fcMode = .none ∧
    t.cfg = s.cfg ∧ t.inputs = s.inputs ∧ t.upTx = s.upTx ∧ t.busTx = s.busTx ∧ t.evt = s.evt ∧
    t.hostOut = s.hostOut

/-- Rule R240 (and R244): the state before the first step has the values of the table under CFG_DEFAULT, and is
quiescent. The values of `cab_type`, `cab_addr`, `aiu`, `speed`, `key`, `fc_hours` and `fc_minutes` are marked by the
table as the spec's own choices (D35); the codes 0x00 and 0x7D are CFG_DEFAULT's (log entry 2). -/
def Obligations.ResetStateValues : Prop :=
  State.reset.uaCnt = 0 ∧ State.reset.tx0.cnt = 0 ∧ State.reset.tx1.cnt = 0 ∧ State.reset.cabState = .unknown ∧
    State.reset.ibCnt = 0 ∧ State.reset.raActive = false ∧ State.reset.raCnt = 0 ∧ State.reset.cabType = 0x00 ∧
    State.reset.cabAddr = 0 ∧ State.reset.aiu = 0 ∧ State.reset.speed = 127 ∧ State.reset.key = 0x7D ∧
    State.reset.fcHours = 0 ∧ State.reset.fcMinutes = 0 ∧ State.reset.fcRate = 0 ∧ State.reset.fcMode = .none ∧
    quiescent State.reset = true

/-- Rules R10, R14, R16, R18: the invariant holds right after reset under every well-formed configuration, and so at the
machine's own reset state. That the registers R240 leaves unspecified are zero there is log entry 1. -/
def Obligations.ResetStateIsSound : Prop :=
  (∀ c : Cfg, c.wellFormed = true → Sound (State.resetOf c)) ∧ Sound State.reset

/-! ### Whole machine -/

/-- Rules R10, R13, R14, R16, R18, R26, R40: every step keeps the invariant: counters below their lengths, lengths the
table's, right checksums on pending frames, buffers in canonical form. -/
def Obligations.EveryStepKeepsSound : Prop :=
  ∀ s t : State, Sound s → step s = .next t → Sound t

/-- Rules R112, R225, R241, R244: from a sound state no step stops: no buffer is overrun and no unit is read with a
byte it did not write, whatever the transaction. -/
def Obligations.SoundStatesNeverStop : Prop := ∀ s : State, Sound s → stepsOn s

/-- Rules R1, R49: no step changes the configuration; each consumes the oldest transaction; the output sequences are
only appended to (R28). That transactions stand in a list and an empty one stays empty is the model's choice (log
entry 7), and that RESET keeps those not yet consumed is log entry 13. -/
def Obligations.StepsAppendOutputsOnly : Prop :=
  ∀ s t : State, step s = .next t →
    t.cfg = s.cfg ∧ t.inputs = s.inputs.tail ∧ extendsLog s.upTx t.upTx ∧ extendsLog s.busTx t.busTx ∧
      extendsLog s.evt t.evt ∧ extendsLog s.hostOut t.hostOut

/-- Rule R115: an upstream byte changes the assembler, the staging slots and `up_tx` only. -/
def Obligations.UpstreamSideIsIndependent : Prop :=
  ∀ (s t : State) (b : Byte) (rest : List Input), s.inputs = .upByte b :: rest → step s = .next t →
    t = { s with
      inputs := rest, uaCnt := t.uaCnt, uaLen := t.uaLen, uaBuf := t.uaBuf, tx0 := t.tx0, tx1 := t.tx1,
      upTx := t.upTx }

/-- Rules R150, R190, R227: a bus byte routed to the reply assembler alone changes that assembler and `up_tx` only; one
routed to the poll/command machine alone changes neither of these nor the upstream assembler nor the device's
identity; one routed to both (the default) changes what the two may change and nothing else: not the upstream
assembler, not the bytes of the slots, not the device's identity, not the host values; one routed to neither is only
consumed. The routing bits are the spec's own choice (D33). -/
def Obligations.BusMachinesShareNoState : Prop :=
  ∀ (s t : State) (b : Byte) (rest : List Input),
    (s.inputs = .busByte b false true :: rest → step s = .next t →
      t = { s with
        inputs := rest, raActive := t.raActive, raSize := t.raSize, raCnt := t.raCnt, raBuf := t.raBuf,
        upTx := t.upTx }) ∧
    (s.inputs = .busByte b true false :: rest → step s = .next t →
      t = { s with
        inputs := rest, cabState := t.cabState, ibCnt := t.ibCnt, ibLen := t.ibLen, ibBuf := t.ibBuf,
        tx0 := { s.tx0 with cnt := t.tx0.cnt }, tx1 := { s.tx1 with cnt := t.tx1.cnt }, key := t.key,
        fcHours := t.fcHours, fcMinutes := t.fcMinutes, fcRate := t.fcRate, fcMode := t.fcMode,
        busTx := t.busTx, evt := t.evt }) ∧
    (s.inputs = .busByte b true true :: rest → step s = .next t →
      t = { s with
        inputs := rest, cabState := t.cabState, ibCnt := t.ibCnt, ibLen := t.ibLen, ibBuf := t.ibBuf,
        tx0 := { s.tx0 with cnt := t.tx0.cnt }, tx1 := { s.tx1 with cnt := t.tx1.cnt }, key := t.key,
        fcHours := t.fcHours, fcMinutes := t.fcMinutes, fcRate := t.fcRate, fcMode := t.fcMode,
        busTx := t.busTx, evt := t.evt,
        raActive := t.raActive, raSize := t.raSize, raCnt := t.raCnt, raBuf := t.raBuf, upTx := t.upTx }) ∧
    (s.inputs = .busByte b false false :: rest → step s = .next t → t = { s with inputs := rest })

/-- Rule R150: the order in which the two machines take a bus byte does not show. -/
def Obligations.BusMachinesCommute : Prop :=
  ∀ (s u t : State) (b : Byte), pcFeed b s = .next u → raFeed b u = .next t →
    ∃ v, raFeed b s = .next v ∧ pcFeed b v = .next t

/-- Rule R160: `UNKNOWN` is entered only by RESET. -/
def Obligations.UnknownIsEnteredByResetOnly : Prop :=
  ∀ s t : State, step s = .next t → s.inputs.head? ≠ some .reset → t.cabState = .unknown → s.cabState = .unknown

/-- Rule R25: an established clock mode is never cleared except by RESET. -/
def Obligations.ClockModePersistsUntilReset : Prop :=
  ∀ s t : State, step s = .next t → s.inputs.head? ≠ some .reset → s.fcMode ≠ .none → t.fcMode ≠ .none

/-- Rules R19 to R22, R210: no byte and no host read writes the cab type, the address, the accessory mask or the speed;
a byte leaves the key as it is or sets it to NO_KEY. -/
def Obligations.WireNeverWritesIdentity : Prop :=
  ∀ (s t : State) (x : Input) (rest : List Input), s.inputs = x :: rest → step s = .next t →
    x ≠ .reset → (∀ reg v, x ≠ .cfgWrite reg v) →
      sameIdentity s t ∧ (t.key = s.key ∨ t.key = s.cfg.dev.noKey)

/-- Rule R222: a packet goes out on `bus_tx` only on a poll byte addressed to this node, or on an inbound byte while this
node is addressed (the cab-type query). -/
def Obligations.BusTransmissionNeedsTurn : Prop :=
  ∀ s t : State, step s = .next t → t.busTx ≠ s.busTx →
    ∃ b r rest, s.inputs = .busByte b true r :: rest ∧
      ((isPoll b = true ∧ pollAddr b = s.cabAddr ∧ s.cabAddr ≠ 0) ∨
        (isPoll b = false ∧ s.cabState = .execMyCmd))

/-- Rule R113: the bytes of a packet of the length its opcode has in the table, presented on the upstream port, run
exactly one unit, the packet's, on the last byte; before that nothing but the assembler changes; after it the
assembler is empty. The values of the data bytes do not matter. That a byte outside the opcode range is a packet of
length 1 is the spec's own choice (R111, D3; log entry 14, U1); that transactions stand in a list is log entry 7. -/
def Obligations.UpstreamPacketIsDispatchedOnce : Prop :=
  ∀ (s : State) (opc : Byte) (body : List Byte) (rest : List Input),
    s.cfg.wellFormed = true → s.uaCnt = 0 →
    (upPacketLen s.cfg.up opc).toNat = (opc :: body).length →
    s.inputs = (opc :: body).map Input.upByte ++ rest →
      (∀ k, k < (opc :: body).length → ∃ u : State, runSteps k s = .next u ∧
        u.uaCnt.toNat = k ∧
        u = { s with inputs := u.inputs, uaCnt := u.uaCnt, uaLen := u.uaLen, uaBuf := u.uaBuf }) ∧
      ∃ (i : Instr) (v t : State), decode s.cfg (.up (opc :: body)) = .ok i ∧
        memSlice v.uaBuf (opc :: body).length = opc :: body ∧
        v = { s with inputs := rest, uaCnt := v.uaCnt, uaLen := v.uaLen, uaBuf := v.uaBuf } ∧
        exec i v = .next t ∧
        runSteps (opc :: body).length s = .next { t with uaCnt := 0 }

/-- Rules R150, R156 and R157: the bytes of an inbound command, none of them a poll byte, presented while this node is
addressed or in a broadcast, are stored adjusted from index `ascii_from` on, and on the last byte the command is
dispatched once (or, of class NONE, has no effect); before that the poll/command machine changes nothing but the
inbound buffer; after it the buffer is empty. Where the bytes are routed to both machines (the default) the reply
assembler makes of them, beside this, what it makes of the same bytes alone. The start of the adjustment (D22), class
NONE (D40), the routing bits (D33) are the spec's own choices; that transactions stand in a list is log entry 7. -/
def Obligations.InboundCommandIsDispatchedOnce : Prop :=
  ∀ (s : State) (opc : Byte) (body : List Byte) (both : Bool) (rest : List Input),
    s.cfg.wellFormed = true → s.ibCnt = 0 → executing s.cabState = true →
    (∀ b ∈ opc :: body, isPoll b = false) →
    (ibLen s.cfg.ib (ibModeOf s.cabState) opc).toNat = (opc :: body).length →
    (both = true → Sound s) →
    s.inputs = (opc :: body).map (fun b => Input.busByte b true both) ++ rest →
      (∀ k, k < (opc :: body).length → ∃ u w : State,
        u.ibCnt.toNat = k ∧
        u = { s with inputs := s.inputs.drop k, ibCnt := u.ibCnt, ibLen := u.ibLen, ibBuf := u.ibBuf } ∧
        alsoFeed both raFeed ((opc :: body).take k) u = .next w ∧ replyFrame u w ∧ runSteps k s = .next w) ∧
      ∃ v t w : State, memSlice v.ibBuf (opc :: body).length = (opc :: body).mapIdx (storedByte s.cfg.ib) ∧
        v = { s with inputs := rest, ibCnt := v.ibCnt, ibLen := v.ibLen, ibBuf := v.ibBuf } ∧
        ((∃ i, decode s.cfg (.pc s.cabState ((opc :: body).mapIdx (storedByte s.cfg.ib))) = .ok i ∧
            exec i v = .next t) ∨
          (decode s.cfg (.pc s.cabState ((opc :: body).mapIdx (storedByte s.cfg.ib))) = .error .noClass ∧ t = v)) ∧
        alsoFeed both raFeed (opc :: body) { t with ibCnt := 0 } = .next w ∧ replyFrame { t with ibCnt := 0 } w ∧
        runSteps (opc :: body).length s = .next w

/-- Rules R150, R190, R192, R193: a lead byte and the bytes after it, whatever they are (lead bytes and poll bytes too),
form one reply of the declared size; exactly one packet goes upstream, on the last byte; the assembler is then
inactive. Where the bytes are routed to both machines (the default) the poll/command machine makes of them, beside
this, what it makes of the same bytes alone. The routing bits are the spec's own choice (D33); that transactions stand
in a list is log entry 7. -/
def Obligations.ReplyIsAssembledWhateverItsBytes : Prop :=
  ∀ (s : State) (lead : Byte) (body : List Byte) (n : BitVec 3) (both : Bool) (rest : List Input),
    s.cfg.wellFormed = true → s.raActive = false → raSizeOf lead = some n → n.toNat = (lead :: body).length →
    (both = true → Sound s) →
    s.inputs = (lead :: body).map (fun b => Input.busByte b both true) ++ rest →
      (∀ k, 0 < k → k < (lead :: body).length → ∃ u w : State,
        u.raActive = true ∧ u.raCnt.toNat = k ∧
        u = { s with
          inputs := s.inputs.drop k, raActive := true, raSize := n, raCnt := u.raCnt, raBuf := u.raBuf } ∧
        alsoFeed both pcFeed ((lead :: body).take k) u = .next w ∧ pcFrame u w ∧ runSteps k s = .next w) ∧
      ∃ (i : Instr) (p : List Byte) (t w : State), decode s.cfg (.ra (lead :: body)) = .ok i ∧
        exec i s = .next { s with upTx := s.upTx ++ [p] } ∧
        t = { s with
          inputs := rest, raActive := false, raCnt := 0, raSize := n, raBuf := t.raBuf, upTx := s.upTx ++ [p] } ∧
        alsoFeed both pcFeed (lead :: body) t = .next w ∧ pcFrame t w ∧
        runSteps (lead :: body).length s = .next w

/-- Spec section 5 of 00_scope.md and rules R110, R150, R151, R190: a step runs the unit its machine has completed. It
consumes the transaction; an assembled unit is run on the state its last byte is stored in, and its position counter
is then cleared; a unit of one byte and a host access run on the state as it is; a bus byte routed to both machines
goes to the poll/command machine and then to the reply assembler (the model's choice, log entry 16; R150 calls the order
unobservable, D34). That a step consumes the oldest of a list of transactions is log entry 7. -/
def Obligations.StepRunsDecodedUnit : Prop :=
  ∀ (s u t : State) (b : Byte) (w : Wire) (i : Instr) (rest : List Input), s.cfg.wellFormed = true →
    (s.inputs = .upByte b :: rest → upFetch b { s with inputs := rest } = .complete w u →
      decode u.cfg w = .ok i → exec i u = .next t → step s = .next { t with uaCnt := 0 }) ∧
    (s.inputs = .busByte b true false :: rest → pcFetch b { s with inputs := rest } = .single w u →
      decode u.cfg w = .ok i → exec i u = .next t → step s = .next t) ∧
    (s.inputs = .busByte b true false :: rest → pcFetch b { s with inputs := rest } = .complete w u →
      decode u.cfg w = .ok i → exec i u = .next t → step s = .next { t with ibCnt := 0 }) ∧
    (s.inputs = .busByte b false true :: rest → raFetch b { s with inputs := rest } = .single w u →
      decode u.cfg w = .ok i → exec i u = .next t → step s = .next t) ∧
    (s.inputs = .busByte b false true :: rest → raFetch b { s with inputs := rest } = .complete w u →
      decode u.cfg w = .ok i → exec i u = .next t → step s = .next { t with raActive := false, raCnt := 0 }) ∧
    (s.inputs = .busByte b true true :: rest → pcFeed b { s with inputs := rest } = .next u →
      step s = raFeed b u) ∧
    (∀ reg v, s.inputs = .cfgRead reg :: rest ∧ decode s.cfg (.hostRead reg) = .ok i ∨
        s.inputs = .cfgWrite reg v :: rest ∧ decode s.cfg (.hostWrite reg v) = .ok i →
      step s = exec i { s with inputs := rest }) ∧
    (s.inputs = .reset :: rest → step s = exec .reset { s with inputs := rest })

/-- The model's own choice (log entry 7; rule R244 says only that a run is over when no step is presented): a step with
nothing presented changes nothing. -/
def Obligations.IdleStepChangesNothing : Prop :=
  ∀ s : State, s.cfg.wellFormed = true → s.inputs = [] → step s = .next s

/-! ### Configuration and encoding -/

/-- Rule R1: a step under an ill-formed configuration is refused, and the default configuration is well-formed.
Well-formedness here asks more than R1: `ascii_from` at least 1 and the positions' conditions of R178, the model's
inference (log entry 6, DEDUCED). The default configuration is log entry 2. -/
def Obligations.IllFormedConfigurationIsRefused : Prop :=
  (∀ s : State, s.cfg.wellFormed = false → step s = .refused .illFormedCfg) ∧ cfgDefault.wellFormed = true

/-- Rule R1: what well-formedness says of the tables as functions of a byte. -/
def Obligations.WellFormedTablesMeetRule : Prop :=
  ∀ (c : Cfg) (b : Byte), c.wellFormed = true →
    c.up.base ≤ c.up.high ∧
    (upInRange c.up b = true → 1 ≤ (upLen c.up b).toNat ∧ (upLen c.up b).toNat ≤ 11) ∧
    (∀ n, upInRange c.up b = true → (upClassOf c.up b).formatLen = some n → upLen c.up b = n) ∧
    (∀ m, (ibLen c.ib m b).toNat ≤ 9 ∧ (isPoll b = true → ibLen c.ib m b = 0)) ∧
    (∀ n, (addrClassOf c.ib b).frameLen = some n → ibLen c.ib .addressed b = n) ∧
    (∀ n, (bcastClassOf c.ib b).frameLen = some n → ibLen c.ib .broadcast b = n) ∧
    (∀ base, (upClassOf c.up b).cvBase = some base → base.toNat + 63 ≤ 255) ∧
    c.dev.noKey.toNat ≤ 126 ∧
    [c.rsp.ok, c.rsp.notSupported, c.rsp.addrRange, c.rsp.cabOpRange, c.rsp.cvRange, c.rsp.byteCount].Nodup ∧
    [c.dev.cabTypeLcd, c.dev.cabTypeNoLcd, c.dev.cabTypeSmart, c.dev.cabTypeAiu, c.dev.cabTypeReserved,
      c.dev.cabTypeBridge1, c.dev.cabTypeBridge2, c.dev.cabTypeUnknown].Nodup

/-- Decode and encode agree: under every well-formed configuration, every well-formed unit decodes from its own wire
unit, every operand at every value. -/
def Obligations.DecodeOfEncodeIsIdentity : Prop :=
  ∀ (c : Cfg) (i : Instr), c.wellFormed = true → i.wf c = true → decode c (encode i) = .ok i

/-- The other direction on the upstream port: what a packet decodes to is well-formed and encodes to that packet, so no
two packets stand for the same unit. -/
def Obligations.DecodedPacketReencodes : Prop :=
  ∀ (c : Cfg) (p : List Byte) (i : Instr), c.wellFormed = true → decode c (.up p) = .ok i →
    i.wf c = true ∧ encode i = .up p

/-- Rules R62, R64, R66, R67, R200: wire units written out from the spec decode to the units they stand for. The order
and width of the 16-bit fields (D6, D7), the inbound lengths (D23, D30) and the register numbers (D1) are the spec's own
choices; the opcodes are CFG_DEFAULT's (log entry 2). -/
def Obligations.WrittenOutUnitsDecode : Prop :=
  decode cfgDefault (.up [0xA2, 0x00, 0x32, 0x01, 0x02]) = .ok (.upLocoCtrl 0xA2 50 0x01 0x02) ∧
    decode cfgDefault (.up [0xAE, 0x04, 0xD2, 0x00, 0x1D, 0x86]) = .ok (.upOpsLoco 0xAE 1234 29 0x86) ∧
    decode cfgDefault (.pc .pingOther [0x85]) = .ok (.poll 5) ∧
    decode cfgDefault (.pc .execMyCmd [0xC8, 0xD5]) = .ok (.ibCursorMove 0xC8 0xD5) ∧
    decode cfgDefault (.pc .execBroadcastCmd [0xD4, 0x05]) = .ok (.ibFcRate 0xD4 0x05) ∧
    decode cfgDefault (.ra [0xD9, 0x0A, 0x17, 0x2C]) = .ok (.replyD9 0x0A 0x17 0x2C) ∧
    decode cfgDefault (.hostWrite 12 1) = .ok (.cfgAiuBit7 (.write 1))
end

