-- ==== Sys2Proof/Laws/Mem.lean ====
section
/-! SUPPORT. The laws of the byte buffers: a read after a write, and that every operation keeps the canonical form. -/

namespace Sys2Proof.Machine

theorem memRead_erase (m : Memory) (a i : Nat) :
    memRead (memErase m a) i = if i = a then memDefault else memRead m i := by
  induction m with
  | nil => simp [memErase, memRead]
  | cons c rest ih =>
    obtain ⟨k, v⟩ := c
    by_cases hk : k = a
    · subst hk
      by_cases hi : i = k
      · subst hi; simpa [memErase] using ih
      · simpa [memErase, memRead, hi, Ne.symm hi] using ih
    · simp only [memErase, hk, if_false, memRead]
      by_cases hi : k = i
      · subst hi; simp [hk]
      · simp [hi, ih]

theorem memRead_insert (m : Memory) (a i : Nat) (v : Byte) :
    memRead (memInsert m a v) i = if i = a then v else memRead m i := by
  induction m with
  | nil => simp only [memInsert, memRead]; by_cases h : a = i <;> simp [h, eq_comm]
  | cons c rest ih =>
    obtain ⟨k, w⟩ := c
    simp only [memInsert]
    by_cases h1 : a < k
    · simp only [h1, if_true, memRead]
      by_cases h : a = i
      · simp [h]
      · simp [h, Ne.symm h]
    · simp only [h1, if_false]
      by_cases h2 : a = k
      · subst h2
        simp only [if_true, memRead]
        by_cases h : a = i
        · simp [h]
        · simp [h, Ne.symm h]
      · simp only [h2, if_false, memRead, ih]
        by_cases h : k = i
        · subst h; simp [Ne.symm h2]
        · simp [h]

/-- A read after a write gives the value written at that index, and every other index reads as before. -/
theorem memRead_write (m : Memory) (a i : Nat) (v : Byte) :
    memRead (memWrite m a v) i = if i = a then v else memRead m i := by
  unfold memWrite
  split
  · next hv => rw [memRead_erase m a i, hv]
  · exact memRead_insert m a i v

theorem memErase_mem (m : Memory) (a : Nat) (c : Host.Cell) (h : c ∈ memErase m a) : c ∈ m := by
  induction m with
  | nil => simp [memErase] at h
  | cons d rest ih =>
    obtain ⟨k, v⟩ := d
    simp only [memErase] at h
    split at h
    · simp [ih h]
    · rcases List.mem_cons.1 h with h | h
      · simp [h]
      · simp [ih h]

theorem memInsert_mem (m : Memory) (a : Nat) (v : Byte) (c : Host.Cell) (h : c ∈ memInsert m a v) :
    c = (a, v) ∨ c ∈ m := by
  induction m with
  | nil => simpa [memInsert] using h
  | cons d rest ih =>
    obtain ⟨k, w⟩ := d
    simp only [memInsert] at h
    split at h
    · rcases List.mem_cons.1 h with h | h
      · exact .inl h
      · exact .inr h
    · split at h
      · rcases List.mem_cons.1 h with h | h
        · exact .inl h
        · exact .inr (by simp [h])
      · rcases List.mem_cons.1 h with h | h
        · exact .inr (by simp [h])
        · rcases ih h with h | h
          · exact .inl h
          · exact .inr (by simp [h])

theorem memErase_wf (m : Memory) (a : Nat) (h : Memory.wf m = true) : Memory.wf (memErase m a) = true := by
  induction m with
  | nil => rfl
  | cons d rest ih =>
    obtain ⟨k, v⟩ := d
    simp only [Memory.wf, Bool.and_eq_true, List.all_eq_true, decide_eq_true_eq] at h
    simp only [memErase]
    split
    · exact ih h.2
    · simp only [Memory.wf, Bool.and_eq_true, List.all_eq_true, decide_eq_true_eq]
      exact ⟨⟨h.1.1, fun c hc => h.1.2 c (memErase_mem rest a c hc)⟩, ih h.2⟩

theorem memInsert_wf (m : Memory) (a : Nat) (v : Byte) (hv : v ≠ memDefault) (h : Memory.wf m = true) :
    Memory.wf (memInsert m a v) = true := by
  induction m with
  | nil => simp [memInsert, Memory.wf, hv]
  | cons d rest ih =>
    obtain ⟨k, w⟩ := d
    have h' := h
    simp only [Memory.wf, Bool.and_eq_true, List.all_eq_true, decide_eq_true_eq] at h
    simp only [memInsert]
    split
    · next hak =>
      simp only [Memory.wf, Bool.and_eq_true, List.all_eq_true, decide_eq_true_eq, bne_iff_ne]
      refine ⟨⟨hv, ?_⟩, ?_⟩
      · intro c hc
        rcases List.mem_cons.1 hc with hc | hc
        · subst hc; exact hak
        · exact Nat.lt_trans hak (h.1.2 c hc)
      · exact ⟨⟨by simpa using h.1.1, h.1.2⟩, h.2⟩
    · split
      · next _ hk =>
        subst hk
        simp only [Memory.wf, Bool.and_eq_true, List.all_eq_true, decide_eq_true_eq, bne_iff_ne]
        exact ⟨⟨hv, h.1.2⟩, h.2⟩
      · next hlt hne =>
        simp only [Memory.wf, Bool.and_eq_true, List.all_eq_true, decide_eq_true_eq]
        refine ⟨⟨h.1.1, ?_⟩, ih h.2⟩
        intro c hc
        rcases memInsert_mem rest a v c hc with hc | hc
        · subst hc; show k < a; omega
        · exact h.1.2 c hc

/-- A write keeps the canonical form. -/
theorem memWrite_wf (m : Memory) (a : Nat) (v : Byte) (h : Memory.wf m = true) :
    Memory.wf (memWrite m a v) = true := by
  unfold memWrite
  split
  · exact memErase_wf m a h
  · next hv => exact memInsert_wf m a v hv h

/-- A write below `size` keeps the buffer below `size`. -/
theorem memWrite_below (size : Nat) (m : Memory) (a : Nat) (v : Byte) (ha : a < size)
    (h : memBelow size m = true) : memBelow size (memWrite m a v) = true := by
  simp only [memBelow, List.all_eq_true, decide_eq_true_eq] at *
  intro c hc
  unfold memWrite at hc
  split at hc
  · exact h c (memErase_mem m a c hc)
  · rcases memInsert_mem m a v c hc with hc | hc
    · subst hc; exact ha
    · exact h c hc

/-- A list of bytes written keeps the canonical form. -/
theorem memWriteList_wf (l : List Byte) (m : Memory) (a : Nat) (h : Memory.wf m = true) :
    Memory.wf (memWriteList m a l) = true := by
  induction l generalizing m a with
  | nil => exact h
  | cons v rest ih => exact ih _ _ (memWrite_wf m a v h)

/-- A list of bytes written below `size` keeps the buffer below `size`. -/
theorem memWriteList_below (size : Nat) (l : List Byte) (m : Memory) (a : Nat) (ha : a + l.length ≤ size)
    (h : memBelow size m = true) : memBelow size (memWriteList m a l) = true := by
  induction l generalizing m a with
  | nil => exact h
  | cons v rest ih =>
    simp only [List.length_cons] at ha
    exact ih _ _ (by omega) (memWrite_below size m a v (by omega) h)

/-- A read after a list of bytes is written from the index `a` on. -/
theorem memRead_writeList (l : List Byte) (m : Memory) (a i : Nat) :
    memRead (memWriteList m a l) i =
      if a ≤ i ∧ i < a + l.length then l.getD (i - a) memDefault else memRead m i := by
  induction l generalizing m a with
  | nil => have : ¬ (a ≤ i ∧ i < a) := by omega
           simp [memWriteList, this]
  | cons v rest ih =>
    simp only [memWriteList, ih, memRead_write m a i v, List.length_cons]
    by_cases h1 : i = a
    · subst h1; simp
    · by_cases h2 : a ≤ i ∧ i < a + (rest.length + 1)
      · have h3 : a + 1 ≤ i ∧ i < a + 1 + rest.length := by omega
        have h4 : i - a = (i - (a + 1)) + 1 := by omega
        rw [if_pos h3, if_pos h2, h4]
        rfl
      · have h3 : ¬ (a + 1 ≤ i ∧ i < a + 1 + rest.length) := by omega
        rw [if_neg h3, if_neg h2, if_neg h1]

@[simp] theorem memSlice_length (m : Memory) (n : Nat) : (memSlice m n).length = n := by simp [memSlice]

theorem memSlice_getD (m : Memory) (n i : Nat) (h : i < n) : (memSlice m n).getD i memDefault = memRead m i := by
  simp [memSlice, List.getD, h]

/-- The bytes written from index 0 on are the bytes the slice reads back. -/
theorem memSlice_writeList (l : List Byte) (m : Memory) :
    memSlice (memWriteList m 0 l) l.length = l := by
  apply List.ext_getElem
  · simp
  · intro i h1 h2
    simp [memSlice, memRead_writeList l m 0 i, h2]

/-- Two buffers that agree below `n` have the same slice. -/
theorem memSlice_congr (m m' : Memory) (n : Nat) (h : ∀ i, i < n → memRead m i = memRead m' i) :
    memSlice m n = memSlice m' n := by
  unfold memSlice
  exact List.map_congr_left (fun i hi => h i (List.mem_range.1 hi))

/-- A slice one byte longer ends in that byte. -/
theorem memSlice_succ (m : Memory) (n : Nat) : memSlice m (n + 1) = memSlice m n ++ [memRead m n] := by
  simp [memSlice, List.range_succ]

/-- A slice that is not empty begins with the byte at index 0. -/
theorem memSlice_head (m : Memory) (n : Nat) (h : 0 < n) :
    memSlice m n = memRead m 0 :: (memSlice m n).tail := by
  obtain ⟨k, rfl⟩ := Nat.exists_eq_succ_of_ne_zero (Nat.pos_iff_ne_zero.1 h)
  simp [memSlice, List.range_succ_eq_map]

end Sys2Proof.Machine
end

