-- ==== Sys2Proof/Laws/State.lean ====
section
/-! SUPPORT. One lemma per field per named update: what each field of State holds after it. -/

namespace Sys2Proof.Machine

variable (s : State)

/-! ### `emitUp` -/

@[simp] theorem emitUp_uaCnt (p : List Byte) : (emitUp p s).uaCnt = s.uaCnt := rfl
@[simp] theorem emitUp_uaLen (p : List Byte) : (emitUp p s).uaLen = s.uaLen := rfl
@[simp] theorem emitUp_uaBuf (p : List Byte) : (emitUp p s).uaBuf = s.uaBuf := rfl
@[simp] theorem emitUp_tx0 (p : List Byte) : (emitUp p s).tx0 = s.tx0 := rfl
@[simp] theorem emitUp_tx1 (p : List Byte) : (emitUp p s).tx1 = s.tx1 := rfl
@[simp] theorem emitUp_cabState (p : List Byte) : (emitUp p s).cabState = s.cabState := rfl
@[simp] theorem emitUp_ibCnt (p : List Byte) : (emitUp p s).ibCnt = s.ibCnt := rfl
@[simp] theorem emitUp_ibLen (p : List Byte) : (emitUp p s).ibLen = s.ibLen := rfl
@[simp] theorem emitUp_ibBuf (p : List Byte) : (emitUp p s).ibBuf = s.ibBuf := rfl
@[simp] theorem emitUp_raActive (p : List Byte) : (emitUp p s).raActive = s.raActive := rfl
@[simp] theorem emitUp_raSize (p : List Byte) : (emitUp p s).raSize = s.raSize := rfl
@[simp] theorem emitUp_raCnt (p : List Byte) : (emitUp p s).raCnt = s.raCnt := rfl
@[simp] theorem emitUp_raBuf (p : List Byte) : (emitUp p s).raBuf = s.raBuf := rfl
@[simp] theorem emitUp_cabType (p : List Byte) : (emitUp p s).cabType = s.cabType := rfl
@[simp] theorem emitUp_cabAddr (p : List Byte) : (emitUp p s).cabAddr = s.cabAddr := rfl
@[simp] theorem emitUp_aiu (p : List Byte) : (emitUp p s).aiu = s.aiu := rfl
@[simp] theorem emitUp_speed (p : List Byte) : (emitUp p s).speed = s.speed := rfl
@[simp] theorem emitUp_key (p : List Byte) : (emitUp p s).key = s.key := rfl
@[simp] theorem emitUp_fcHours (p : List Byte) : (emitUp p s).fcHours = s.fcHours := rfl
@[simp] theorem emitUp_fcMinutes (p : List Byte) : (emitUp p s).fcMinutes = s.fcMinutes := rfl
@[simp] theorem emitUp_fcRate (p : List Byte) : (emitUp p s).fcRate = s.fcRate := rfl
@[simp] theorem emitUp_fcMode (p : List Byte) : (emitUp p s).fcMode = s.fcMode := rfl
@[simp] theorem emitUp_cfg (p : List Byte) : (emitUp p s).cfg = s.cfg := rfl
@[simp] theorem emitUp_inputs (p : List Byte) : (emitUp p s).inputs = s.inputs := rfl
@[simp] theorem emitUp_upTx (p : List Byte) : (emitUp p s).upTx = s.upTx ++ [p] := rfl
@[simp] theorem emitUp_busTx (p : List Byte) : (emitUp p s).busTx = s.busTx := rfl
@[simp] theorem emitUp_evt (p : List Byte) : (emitUp p s).evt = s.evt := rfl
@[simp] theorem emitUp_hostOut (p : List Byte) : (emitUp p s).hostOut = s.hostOut := rfl

/-! ### `emitBus` -/

@[simp] theorem emitBus_uaCnt (p : List Byte) : (emitBus p s).uaCnt = s.uaCnt := rfl
@[simp] theorem emitBus_uaLen (p : List Byte) : (emitBus p s).uaLen = s.uaLen := rfl
@[simp] theorem emitBus_uaBuf (p : List Byte) : (emitBus p s).uaBuf = s.uaBuf := rfl
@[simp] theorem emitBus_tx0 (p : List Byte) : (emitBus p s).tx0 = s.tx0 := rfl
@[simp] theorem emitBus_tx1 (p : List Byte) : (emitBus p s).tx1 = s.tx1 := rfl
@[simp] theorem emitBus_cabState (p : List Byte) : (emitBus p s).cabState = s.cabState := rfl
@[simp] theorem emitBus_ibCnt (p : List Byte) : (emitBus p s).ibCnt = s.ibCnt := rfl
@[simp] theorem emitBus_ibLen (p : List Byte) : (emitBus p s).ibLen = s.ibLen := rfl
@[simp] theorem emitBus_ibBuf (p : List Byte) : (emitBus p s).ibBuf = s.ibBuf := rfl
@[simp] theorem emitBus_raActive (p : List Byte) : (emitBus p s).raActive = s.raActive := rfl
@[simp] theorem emitBus_raSize (p : List Byte) : (emitBus p s).raSize = s.raSize := rfl
@[simp] theorem emitBus_raCnt (p : List Byte) : (emitBus p s).raCnt = s.raCnt := rfl
@[simp] theorem emitBus_raBuf (p : List Byte) : (emitBus p s).raBuf = s.raBuf := rfl
@[simp] theorem emitBus_cabType (p : List Byte) : (emitBus p s).cabType = s.cabType := rfl
@[simp] theorem emitBus_cabAddr (p : List Byte) : (emitBus p s).cabAddr = s.cabAddr := rfl
@[simp] theorem emitBus_aiu (p : List Byte) : (emitBus p s).aiu = s.aiu := rfl
@[simp] theorem emitBus_speed (p : List Byte) : (emitBus p s).speed = s.speed := rfl
@[simp] theorem emitBus_key (p : List Byte) : (emitBus p s).key = s.key := rfl
@[simp] theorem emitBus_fcHours (p : List Byte) : (emitBus p s).fcHours = s.fcHours := rfl
@[simp] theorem emitBus_fcMinutes (p : List Byte) : (emitBus p s).fcMinutes = s.fcMinutes := rfl
@[simp] theorem emitBus_fcRate (p : List Byte) : (emitBus p s).fcRate = s.fcRate := rfl
@[simp] theorem emitBus_fcMode (p : List Byte) : (emitBus p s).fcMode = s.fcMode := rfl
@[simp] theorem emitBus_cfg (p : List Byte) : (emitBus p s).cfg = s.cfg := rfl
@[simp] theorem emitBus_inputs (p : List Byte) : (emitBus p s).inputs = s.inputs := rfl
@[simp] theorem emitBus_upTx (p : List Byte) : (emitBus p s).upTx = s.upTx := rfl
@[simp] theorem emitBus_busTx (p : List Byte) : (emitBus p s).busTx = s.busTx ++ [p] := rfl
@[simp] theorem emitBus_evt (p : List Byte) : (emitBus p s).evt = s.evt := rfl
@[simp] theorem emitBus_hostOut (p : List Byte) : (emitBus p s).hostOut = s.hostOut := rfl

/-! ### `emitEvt` -/

@[simp] theorem emitEvt_uaCnt (e : Event) : (emitEvt e s).uaCnt = s.uaCnt := rfl
@[simp] theorem emitEvt_uaLen (e : Event) : (emitEvt e s).uaLen = s.uaLen := rfl
@[simp] theorem emitEvt_uaBuf (e : Event) : (emitEvt e s).uaBuf = s.uaBuf := rfl
@[simp] theorem emitEvt_tx0 (e : Event) : (emitEvt e s).tx0 = s.tx0 := rfl
@[simp] theorem emitEvt_tx1 (e : Event) : (emitEvt e s).tx1 = s.tx1 := rfl
@[simp] theorem emitEvt_cabState (e : Event) : (emitEvt e s).cabState = s.cabState := rfl
@[simp] theorem emitEvt_ibCnt (e : Event) : (emitEvt e s).ibCnt = s.ibCnt := rfl
@[simp] theorem emitEvt_ibLen (e : Event) : (emitEvt e s).ibLen = s.ibLen := rfl
@[simp] theorem emitEvt_ibBuf (e : Event) : (emitEvt e s).ibBuf = s.ibBuf := rfl
@[simp] theorem emitEvt_raActive (e : Event) : (emitEvt e s).raActive = s.raActive := rfl
@[simp] theorem emitEvt_raSize (e : Event) : (emitEvt e s).raSize = s.raSize := rfl
@[simp] theorem emitEvt_raCnt (e : Event) : (emitEvt e s).raCnt = s.raCnt := rfl
@[simp] theorem emitEvt_raBuf (e : Event) : (emitEvt e s).raBuf = s.raBuf := rfl
@[simp] theorem emitEvt_cabType (e : Event) : (emitEvt e s).cabType = s.cabType := rfl
@[simp] theorem emitEvt_cabAddr (e : Event) : (emitEvt e s).cabAddr = s.cabAddr := rfl
@[simp] theorem emitEvt_aiu (e : Event) : (emitEvt e s).aiu = s.aiu := rfl
@[simp] theorem emitEvt_speed (e : Event) : (emitEvt e s).speed = s.speed := rfl
@[simp] theorem emitEvt_key (e : Event) : (emitEvt e s).key = s.key := rfl
@[simp] theorem emitEvt_fcHours (e : Event) : (emitEvt e s).fcHours = s.fcHours := rfl
@[simp] theorem emitEvt_fcMinutes (e : Event) : (emitEvt e s).fcMinutes = s.fcMinutes := rfl
@[simp] theorem emitEvt_fcRate (e : Event) : (emitEvt e s).fcRate = s.fcRate := rfl
@[simp] theorem emitEvt_fcMode (e : Event) : (emitEvt e s).fcMode = s.fcMode := rfl
@[simp] theorem emitEvt_cfg (e : Event) : (emitEvt e s).cfg = s.cfg := rfl
@[simp] theorem emitEvt_inputs (e : Event) : (emitEvt e s).inputs = s.inputs := rfl
@[simp] theorem emitEvt_upTx (e : Event) : (emitEvt e s).upTx = s.upTx := rfl
@[simp] theorem emitEvt_busTx (e : Event) : (emitEvt e s).busTx = s.busTx := rfl
@[simp] theorem emitEvt_evt (e : Event) : (emitEvt e s).evt = s.evt ++ [e] := rfl
@[simp] theorem emitEvt_hostOut (e : Event) : (emitEvt e s).hostOut = s.hostOut := rfl

/-! ### `hostReturn` -/

@[simp] theorem hostReturn_uaCnt (v : Word16) : (hostReturn v s).uaCnt = s.uaCnt := rfl
@[simp] theorem hostReturn_uaLen (v : Word16) : (hostReturn v s).uaLen = s.uaLen := rfl
@[simp] theorem hostReturn_uaBuf (v : Word16) : (hostReturn v s).uaBuf = s.uaBuf := rfl
@[simp] theorem hostReturn_tx0 (v : Word16) : (hostReturn v s).tx0 = s.tx0 := rfl
@[simp] theorem hostReturn_tx1 (v : Word16) : (hostReturn v s).tx1 = s.tx1 := rfl
@[simp] theorem hostReturn_cabState (v : Word16) : (hostReturn v s).cabState = s.cabState := rfl
@[simp] theorem hostReturn_ibCnt (v : Word16) : (hostReturn v s).ibCnt = s.ibCnt := rfl
@[simp] theorem hostReturn_ibLen (v : Word16) : (hostReturn v s).ibLen = s.ibLen := rfl
@[simp] theorem hostReturn_ibBuf (v : Word16) : (hostReturn v s).ibBuf = s.ibBuf := rfl
@[simp] theorem hostReturn_raActive (v : Word16) : (hostReturn v s).raActive = s.raActive := rfl
@[simp] theorem hostReturn_raSize (v : Word16) : (hostReturn v s).raSize = s.raSize := rfl
@[simp] theorem hostReturn_raCnt (v : Word16) : (hostReturn v s).raCnt = s.raCnt := rfl
@[simp] theorem hostReturn_raBuf (v : Word16) : (hostReturn v s).raBuf = s.raBuf := rfl
@[simp] theorem hostReturn_cabType (v : Word16) : (hostReturn v s).cabType = s.cabType := rfl
@[simp] theorem hostReturn_cabAddr (v : Word16) : (hostReturn v s).cabAddr = s.cabAddr := rfl
@[simp] theorem hostReturn_aiu (v : Word16) : (hostReturn v s).aiu = s.aiu := rfl
@[simp] theorem hostReturn_speed (v : Word16) : (hostReturn v s).speed = s.speed := rfl
@[simp] theorem hostReturn_key (v : Word16) : (hostReturn v s).key = s.key := rfl
@[simp] theorem hostReturn_fcHours (v : Word16) : (hostReturn v s).fcHours = s.fcHours := rfl
@[simp] theorem hostReturn_fcMinutes (v : Word16) : (hostReturn v s).fcMinutes = s.fcMinutes := rfl
@[simp] theorem hostReturn_fcRate (v : Word16) : (hostReturn v s).fcRate = s.fcRate := rfl
@[simp] theorem hostReturn_fcMode (v : Word16) : (hostReturn v s).fcMode = s.fcMode := rfl
@[simp] theorem hostReturn_cfg (v : Word16) : (hostReturn v s).cfg = s.cfg := rfl
@[simp] theorem hostReturn_inputs (v : Word16) : (hostReturn v s).inputs = s.inputs := rfl
@[simp] theorem hostReturn_upTx (v : Word16) : (hostReturn v s).upTx = s.upTx := rfl
@[simp] theorem hostReturn_busTx (v : Word16) : (hostReturn v s).busTx = s.busTx := rfl
@[simp] theorem hostReturn_evt (v : Word16) : (hostReturn v s).evt = s.evt := rfl
@[simp] theorem hostReturn_hostOut (v : Word16) : (hostReturn v s).hostOut = s.hostOut ++ [v] := rfl

/-! ### `raiseCond` -/

@[simp] theorem raiseCond_uaCnt (x : Cond) : (raiseCond x s).uaCnt = s.uaCnt := rfl
@[simp] theorem raiseCond_uaLen (x : Cond) : (raiseCond x s).uaLen = s.uaLen := rfl
@[simp] theorem raiseCond_uaBuf (x : Cond) : (raiseCond x s).uaBuf = s.uaBuf := rfl
@[simp] theorem raiseCond_tx0 (x : Cond) : (raiseCond x s).tx0 = s.tx0 := rfl
@[simp] theorem raiseCond_tx1 (x : Cond) : (raiseCond x s).tx1 = s.tx1 := rfl
@[simp] theorem raiseCond_cabState (x : Cond) : (raiseCond x s).cabState = s.cabState := rfl
@[simp] theorem raiseCond_ibCnt (x : Cond) : (raiseCond x s).ibCnt = s.ibCnt := rfl
@[simp] theorem raiseCond_ibLen (x : Cond) : (raiseCond x s).ibLen = s.ibLen := rfl
@[simp] theorem raiseCond_ibBuf (x : Cond) : (raiseCond x s).ibBuf = s.ibBuf := rfl
@[simp] theorem raiseCond_raActive (x : Cond) : (raiseCond x s).raActive = s.raActive := rfl
@[simp] theorem raiseCond_raSize (x : Cond) : (raiseCond x s).raSize = s.raSize := rfl
@[simp] theorem raiseCond_raCnt (x : Cond) : (raiseCond x s).raCnt = s.raCnt := rfl
@[simp] theorem raiseCond_raBuf (x : Cond) : (raiseCond x s).raBuf = s.raBuf := rfl
@[simp] theorem raiseCond_cabType (x : Cond) : (raiseCond x s).cabType = s.cabType := rfl
@[simp] theorem raiseCond_cabAddr (x : Cond) : (raiseCond x s).cabAddr = s.cabAddr := rfl
@[simp] theorem raiseCond_aiu (x : Cond) : (raiseCond x s).aiu = s.aiu := rfl
@[simp] theorem raiseCond_speed (x : Cond) : (raiseCond x s).speed = s.speed := rfl
@[simp] theorem raiseCond_key (x : Cond) : (raiseCond x s).key = s.key := rfl
@[simp] theorem raiseCond_fcHours (x : Cond) : (raiseCond x s).fcHours = s.fcHours := rfl
@[simp] theorem raiseCond_fcMinutes (x : Cond) : (raiseCond x s).fcMinutes = s.fcMinutes := rfl
@[simp] theorem raiseCond_fcRate (x : Cond) : (raiseCond x s).fcRate = s.fcRate := rfl
@[simp] theorem raiseCond_fcMode (x : Cond) : (raiseCond x s).fcMode = s.fcMode := rfl
@[simp] theorem raiseCond_cfg (x : Cond) : (raiseCond x s).cfg = s.cfg := rfl
@[simp] theorem raiseCond_inputs (x : Cond) : (raiseCond x s).inputs = s.inputs := rfl
@[simp] theorem raiseCond_upTx (x : Cond) : (raiseCond x s).upTx = s.upTx ++ [[condCode s.cfg.rsp x]] := rfl
@[simp] theorem raiseCond_busTx (x : Cond) : (raiseCond x s).busTx = s.busTx := rfl
@[simp] theorem raiseCond_evt (x : Cond) : (raiseCond x s).evt = s.evt := rfl
@[simp] theorem raiseCond_hostOut (x : Cond) : (raiseCond x s).hostOut = s.hostOut := rfl

/-! ### `uaClear` -/

@[simp] theorem uaClear_uaCnt : (uaClear s).uaCnt = 0 := rfl
@[simp] theorem uaClear_uaLen : (uaClear s).uaLen = s.uaLen := rfl
@[simp] theorem uaClear_uaBuf : (uaClear s).uaBuf = s.uaBuf := rfl
@[simp] theorem uaClear_tx0 : (uaClear s).tx0 = s.tx0 := rfl
@[simp] theorem uaClear_tx1 : (uaClear s).tx1 = s.tx1 := rfl
@[simp] theorem uaClear_cabState : (uaClear s).cabState = s.cabState := rfl
@[simp] theorem uaClear_ibCnt : (uaClear s).ibCnt = s.ibCnt := rfl
@[simp] theorem uaClear_ibLen : (uaClear s).ibLen = s.ibLen := rfl
@[simp] theorem uaClear_ibBuf : (uaClear s).ibBuf = s.ibBuf := rfl
@[simp] theorem uaClear_raActive : (uaClear s).raActive = s.raActive := rfl
@[simp] theorem uaClear_raSize : (uaClear s).raSize = s.raSize := rfl
@[simp] theorem uaClear_raCnt : (uaClear s).raCnt = s.raCnt := rfl
@[simp] theorem uaClear_raBuf : (uaClear s).raBuf = s.raBuf := rfl
@[simp] theorem uaClear_cabType : (uaClear s).cabType = s.cabType := rfl
@[simp] theorem uaClear_cabAddr : (uaClear s).cabAddr = s.cabAddr := rfl
@[simp] theorem uaClear_aiu : (uaClear s).aiu = s.aiu := rfl
@[simp] theorem uaClear_speed : (uaClear s).speed = s.speed := rfl
@[simp] theorem uaClear_key : (uaClear s).key = s.key := rfl
@[simp] theorem uaClear_fcHours : (uaClear s).fcHours = s.fcHours := rfl
@[simp] theorem uaClear_fcMinutes : (uaClear s).fcMinutes = s.fcMinutes := rfl
@[simp] theorem uaClear_fcRate : (uaClear s).fcRate = s.fcRate := rfl
@[simp] theorem uaClear_fcMode : (uaClear s).fcMode = s.fcMode := rfl
@[simp] theorem uaClear_cfg : (uaClear s).cfg = s.cfg := rfl
@[simp] theorem uaClear_inputs : (uaClear s).inputs = s.inputs := rfl
@[simp] theorem uaClear_upTx : (uaClear s).upTx = s.upTx := rfl
@[simp] theorem uaClear_busTx : (uaClear s).busTx = s.busTx := rfl
@[simp] theorem uaClear_evt : (uaClear s).evt = s.evt := rfl
@[simp] theorem uaClear_hostOut : (uaClear s).hostOut = s.hostOut := rfl

/-! ### `ibClear` -/

@[simp] theorem ibClear_uaCnt : (ibClear s).uaCnt = s.uaCnt := rfl
@[simp] theorem ibClear_uaLen : (ibClear s).uaLen = s.uaLen := rfl
@[simp] theorem ibClear_uaBuf : (ibClear s).uaBuf = s.uaBuf := rfl
@[simp] theorem ibClear_tx0 : (ibClear s).tx0 = s.tx0 := rfl
@[simp] theorem ibClear_tx1 : (ibClear s).tx1 = s.tx1 := rfl
@[simp] theorem ibClear_cabState : (ibClear s).cabState = s.cabState := rfl
@[simp] theorem ibClear_ibCnt : (ibClear s).ibCnt = 0 := rfl
@[simp] theorem ibClear_ibLen : (ibClear s).ibLen = s.ibLen := rfl
@[simp] theorem ibClear_ibBuf : (ibClear s).ibBuf = s.ibBuf := rfl
@[simp] theorem ibClear_raActive : (ibClear s).raActive = s.raActive := rfl
@[simp] theorem ibClear_raSize : (ibClear s).raSize = s.raSize := rfl
@[simp] theorem ibClear_raCnt : (ibClear s).raCnt = s.raCnt := rfl
@[simp] theorem ibClear_raBuf : (ibClear s).raBuf = s.raBuf := rfl
@[simp] theorem ibClear_cabType : (ibClear s).cabType = s.cabType := rfl
@[simp] theorem ibClear_cabAddr : (ibClear s).cabAddr = s.cabAddr := rfl
@[simp] theorem ibClear_aiu : (ibClear s).aiu = s.aiu := rfl
@[simp] theorem ibClear_speed : (ibClear s).speed = s.speed := rfl
@[simp] theorem ibClear_key : (ibClear s).key = s.key := rfl
@[simp] theorem ibClear_fcHours : (ibClear s).fcHours = s.fcHours := rfl
@[simp] theorem ibClear_fcMinutes : (ibClear s).fcMinutes = s.fcMinutes := rfl
@[simp] theorem ibClear_fcRate : (ibClear s).fcRate = s.fcRate := rfl
@[simp] theorem ibClear_fcMode : (ibClear s).fcMode = s.fcMode := rfl
@[simp] theorem ibClear_cfg : (ibClear s).cfg = s.cfg := rfl
@[simp] theorem ibClear_inputs : (ibClear s).inputs = s.inputs := rfl
@[simp] theorem ibClear_upTx : (ibClear s).upTx = s.upTx := rfl
@[simp] theorem ibClear_busTx : (ibClear s).busTx = s.busTx := rfl
@[simp] theorem ibClear_evt : (ibClear s).evt = s.evt := rfl
@[simp] theorem ibClear_hostOut : (ibClear s).hostOut = s.hostOut := rfl

/-! ### `raClear` -/

@[simp] theorem raClear_uaCnt : (raClear s).uaCnt = s.uaCnt := rfl
@[simp] theorem raClear_uaLen : (raClear s).uaLen = s.uaLen := rfl
@[simp] theorem raClear_uaBuf : (raClear s).uaBuf = s.uaBuf := rfl
@[simp] theorem raClear_tx0 : (raClear s).tx0 = s.tx0 := rfl
@[simp] theorem raClear_tx1 : (raClear s).tx1 = s.tx1 := rfl
@[simp] theorem raClear_cabState : (raClear s).cabState = s.cabState := rfl
@[simp] theorem raClear_ibCnt : (raClear s).ibCnt = s.ibCnt := rfl
@[simp] theorem raClear_ibLen : (raClear s).ibLen = s.ibLen := rfl
@[simp] theorem raClear_ibBuf : (raClear s).ibBuf = s.ibBuf := rfl
@[simp] theorem raClear_raActive : (raClear s).raActive = false := rfl
@[simp] theorem raClear_raSize : (raClear s).raSize = s.raSize := rfl
@[simp] theorem raClear_raCnt : (raClear s).raCnt = 0 := rfl
@[simp] theorem raClear_raBuf : (raClear s).raBuf = s.raBuf := rfl
@[simp] theorem raClear_cabType : (raClear s).cabType = s.cabType := rfl
@[simp] theorem raClear_cabAddr : (raClear s).cabAddr = s.cabAddr := rfl
@[simp] theorem raClear_aiu : (raClear s).aiu = s.aiu := rfl
@[simp] theorem raClear_speed : (raClear s).speed = s.speed := rfl
@[simp] theorem raClear_key : (raClear s).key = s.key := rfl
@[simp] theorem raClear_fcHours : (raClear s).fcHours = s.fcHours := rfl
@[simp] theorem raClear_fcMinutes : (raClear s).fcMinutes = s.fcMinutes := rfl
@[simp] theorem raClear_fcRate : (raClear s).fcRate = s.fcRate := rfl
@[simp] theorem raClear_fcMode : (raClear s).fcMode = s.fcMode := rfl
@[simp] theorem raClear_cfg : (raClear s).cfg = s.cfg := rfl
@[simp] theorem raClear_inputs : (raClear s).inputs = s.inputs := rfl
@[simp] theorem raClear_upTx : (raClear s).upTx = s.upTx := rfl
@[simp] theorem raClear_busTx : (raClear s).busTx = s.busTx := rfl
@[simp] theorem raClear_evt : (raClear s).evt = s.evt := rfl
@[simp] theorem raClear_hostOut : (raClear s).hostOut = s.hostOut := rfl

/-! ### `stage1` -/

@[simp] theorem stage1_uaCnt (g0 g1 g2 g3 : Byte) : (stage1 g0 g1 g2 g3 s).uaCnt = s.uaCnt := rfl
@[simp] theorem stage1_uaLen (g0 g1 g2 g3 : Byte) : (stage1 g0 g1 g2 g3 s).uaLen = s.uaLen := rfl
@[simp] theorem stage1_uaBuf (g0 g1 g2 g3 : Byte) : (stage1 g0 g1 g2 g3 s).uaBuf = s.uaBuf := rfl
@[simp] theorem stage1_tx0 (g0 g1 g2 g3 : Byte) : (stage1 g0 g1 g2 g3 s).tx0 = fillSlot s.tx0 g0 g1 g2 g3 := rfl
@[simp] theorem stage1_tx1 (g0 g1 g2 g3 : Byte) : (stage1 g0 g1 g2 g3 s).tx1 = { s.tx1 with cnt := 0 } := rfl
@[simp] theorem stage1_cabState (g0 g1 g2 g3 : Byte) : (stage1 g0 g1 g2 g3 s).cabState = s.cabState := rfl
@[simp] theorem stage1_ibCnt (g0 g1 g2 g3 : Byte) : (stage1 g0 g1 g2 g3 s).ibCnt = s.ibCnt := rfl
@[simp] theorem stage1_ibLen (g0 g1 g2 g3 : Byte) : (stage1 g0 g1 g2 g3 s).ibLen = s.ibLen := rfl
@[simp] theorem stage1_ibBuf (g0 g1 g2 g3 : Byte) : (stage1 g0 g1 g2 g3 s).ibBuf = s.ibBuf := rfl
@[simp] theorem stage1_raActive (g0 g1 g2 g3 : Byte) : (stage1 g0 g1 g2 g3 s).raActive = s.raActive := rfl
@[simp] theorem stage1_raSize (g0 g1 g2 g3 : Byte) : (stage1 g0 g1 g2 g3 s).raSize = s.raSize := rfl
@[simp] theorem stage1_raCnt (g0 g1 g2 g3 : Byte) : (stage1 g0 g1 g2 g3 s).raCnt = s.raCnt := rfl
@[simp] theorem stage1_raBuf (g0 g1 g2 g3 : Byte) : (stage1 g0 g1 g2 g3 s).raBuf = s.raBuf := rfl
@[simp] theorem stage1_cabType (g0 g1 g2 g3 : Byte) : (stage1 g0 g1 g2 g3 s).cabType = s.cabType := rfl
@[simp] theorem stage1_cabAddr (g0 g1 g2 g3 : Byte) : (stage1 g0 g1 g2 g3 s).cabAddr = s.cabAddr := rfl
@[simp] theorem stage1_aiu (g0 g1 g2 g3 : Byte) : (stage1 g0 g1 g2 g3 s).aiu = s.aiu := rfl
@[simp] theorem stage1_speed (g0 g1 g2 g3 : Byte) : (stage1 g0 g1 g2 g3 s).speed = s.speed := rfl
@[simp] theorem stage1_key (g0 g1 g2 g3 : Byte) : (stage1 g0 g1 g2 g3 s).key = s.key := rfl
@[simp] theorem stage1_fcHours (g0 g1 g2 g3 : Byte) : (stage1 g0 g1 g2 g3 s).fcHours = s.fcHours := rfl
@[simp] theorem stage1_fcMinutes (g0 g1 g2 g3 : Byte) : (stage1 g0 g1 g2 g3 s).fcMinutes = s.fcMinutes := rfl
@[simp] theorem stage1_fcRate (g0 g1 g2 g3 : Byte) : (stage1 g0 g1 g2 g3 s).fcRate = s.fcRate := rfl
@[simp] theorem stage1_fcMode (g0 g1 g2 g3 : Byte) : (stage1 g0 g1 g2 g3 s).fcMode = s.fcMode := rfl
@[simp] theorem stage1_cfg (g0 g1 g2 g3 : Byte) : (stage1 g0 g1 g2 g3 s).cfg = s.cfg := rfl
@[simp] theorem stage1_inputs (g0 g1 g2 g3 : Byte) : (stage1 g0 g1 g2 g3 s).inputs = s.inputs := rfl
@[simp] theorem stage1_upTx (g0 g1 g2 g3 : Byte) : (stage1 g0 g1 g2 g3 s).upTx = s.upTx := rfl
@[simp] theorem stage1_busTx (g0 g1 g2 g3 : Byte) : (stage1 g0 g1 g2 g3 s).busTx = s.busTx := rfl
@[simp] theorem stage1_evt (g0 g1 g2 g3 : Byte) : (stage1 g0 g1 g2 g3 s).evt = s.evt := rfl
@[simp] theorem stage1_hostOut (g0 g1 g2 g3 : Byte) : (stage1 g0 g1 g2 g3 s).hostOut = s.hostOut := rfl

/-! ### `stage2` -/

@[simp] theorem stage2_uaCnt (g0 g1 g2 g3 h0 h1 h2 h3 : Byte) : (stage2 g0 g1 g2 g3 h0 h1 h2 h3 s).uaCnt = s.uaCnt := rfl
@[simp] theorem stage2_uaLen (g0 g1 g2 g3 h0 h1 h2 h3 : Byte) : (stage2 g0 g1 g2 g3 h0 h1 h2 h3 s).uaLen = s.uaLen := rfl
@[simp] theorem stage2_uaBuf (g0 g1 g2 g3 h0 h1 h2 h3 : Byte) : (stage2 g0 g1 g2 g3 h0 h1 h2 h3 s).uaBuf = s.uaBuf := rfl
@[simp] theorem stage2_tx0 (g0 g1 g2 g3 h0 h1 h2 h3 : Byte) : (stage2 g0 g1 g2 g3 h0 h1 h2 h3 s).tx0 = fillSlot s.tx0 g0 g1 g2 g3 := rfl
@[simp] theorem stage2_tx1 (g0 g1 g2 g3 h0 h1 h2 h3 : Byte) : (stage2 g0 g1 g2 g3 h0 h1 h2 h3 s).tx1 = fillSlot s.tx1 h0 h1 h2 h3 := rfl
@[simp] theorem stage2_cabState (g0 g1 g2 g3 h0 h1 h2 h3 : Byte) : (stage2 g0 g1 g2 g3 h0 h1 h2 h3 s).cabState = s.cabState := rfl
@[simp] theorem stage2_ibCnt (g0 g1 g2 g3 h0 h1 h2 h3 : Byte) : (stage2 g0 g1 g2 g3 h0 h1 h2 h3 s).ibCnt = s.ibCnt := rfl
@[simp] theorem stage2_ibLen (g0 g1 g2 g3 h0 h1 h2 h3 : Byte) : (stage2 g0 g1 g2 g3 h0 h1 h2 h3 s).ibLen = s.ibLen := rfl
@[simp] theorem stage2_ibBuf (g0 g1 g2 g3 h0 h1 h2 h3 : Byte) : (stage2 g0 g1 g2 g3 h0 h1 h2 h3 s).ibBuf = s.ibBuf := rfl
@[simp] theorem stage2_raActive (g0 g1 g2 g3 h0 h1 h2 h3 : Byte) : (stage2 g0 g1 g2 g3 h0 h1 h2 h3 s).raActive = s.raActive := rfl
@[simp] theorem stage2_raSize (g0 g1 g2 g3 h0 h1 h2 h3 : Byte) : (stage2 g0 g1 g2 g3 h0 h1 h2 h3 s).raSize = s.raSize := rfl
@[simp] theorem stage2_raCnt (g0 g1 g2 g3 h0 h1 h2 h3 : Byte) : (stage2 g0 g1 g2 g3 h0 h1 h2 h3 s).raCnt = s.raCnt := rfl
@[simp] theorem stage2_raBuf (g0 g1 g2 g3 h0 h1 h2 h3 : Byte) : (stage2 g0 g1 g2 g3 h0 h1 h2 h3 s).raBuf = s.raBuf := rfl
@[simp] theorem stage2_cabType (g0 g1 g2 g3 h0 h1 h2 h3 : Byte) : (stage2 g0 g1 g2 g3 h0 h1 h2 h3 s).cabType = s.cabType := rfl
@[simp] theorem stage2_cabAddr (g0 g1 g2 g3 h0 h1 h2 h3 : Byte) : (stage2 g0 g1 g2 g3 h0 h1 h2 h3 s).cabAddr = s.cabAddr := rfl
@[simp] theorem stage2_aiu (g0 g1 g2 g3 h0 h1 h2 h3 : Byte) : (stage2 g0 g1 g2 g3 h0 h1 h2 h3 s).aiu = s.aiu := rfl
@[simp] theorem stage2_speed (g0 g1 g2 g3 h0 h1 h2 h3 : Byte) : (stage2 g0 g1 g2 g3 h0 h1 h2 h3 s).speed = s.speed := rfl
@[simp] theorem stage2_key (g0 g1 g2 g3 h0 h1 h2 h3 : Byte) : (stage2 g0 g1 g2 g3 h0 h1 h2 h3 s).key = s.key := rfl
@[simp] theorem stage2_fcHours (g0 g1 g2 g3 h0 h1 h2 h3 : Byte) : (stage2 g0 g1 g2 g3 h0 h1 h2 h3 s).fcHours = s.fcHours := rfl
@[simp] theorem stage2_fcMinutes (g0 g1 g2 g3 h0 h1 h2 h3 : Byte) : (stage2 g0 g1 g2 g3 h0 h1 h2 h3 s).fcMinutes = s.fcMinutes := rfl
@[simp] theorem stage2_fcRate (g0 g1 g2 g3 h0 h1 h2 h3 : Byte) : (stage2 g0 g1 g2 g3 h0 h1 h2 h3 s).fcRate = s.fcRate := rfl
@[simp] theorem stage2_fcMode (g0 g1 g2 g3 h0 h1 h2 h3 : Byte) : (stage2 g0 g1 g2 g3 h0 h1 h2 h3 s).fcMode = s.fcMode := rfl
@[simp] theorem stage2_cfg (g0 g1 g2 g3 h0 h1 h2 h3 : Byte) : (stage2 g0 g1 g2 g3 h0 h1 h2 h3 s).cfg = s.cfg := rfl
@[simp] theorem stage2_inputs (g0 g1 g2 g3 h0 h1 h2 h3 : Byte) : (stage2 g0 g1 g2 g3 h0 h1 h2 h3 s).inputs = s.inputs := rfl
@[simp] theorem stage2_upTx (g0 g1 g2 g3 h0 h1 h2 h3 : Byte) : (stage2 g0 g1 g2 g3 h0 h1 h2 h3 s).upTx = s.upTx := rfl
@[simp] theorem stage2_busTx (g0 g1 g2 g3 h0 h1 h2 h3 : Byte) : (stage2 g0 g1 g2 g3 h0 h1 h2 h3 s).busTx = s.busTx := rfl
@[simp] theorem stage2_evt (g0 g1 g2 g3 h0 h1 h2 h3 : Byte) : (stage2 g0 g1 g2 g3 h0 h1 h2 h3 s).evt = s.evt := rfl
@[simp] theorem stage2_hostOut (g0 g1 g2 g3 h0 h1 h2 h3 : Byte) : (stage2 g0 g1 g2 g3 h0 h1 h2 h3 s).hostOut = s.hostOut := rfl

/-! ### `uaStore` -/

@[simp] theorem uaStore_uaCnt (b : Byte) : (uaStore b s).uaCnt = s.uaCnt + 1 := rfl
@[simp] theorem uaStore_uaLen (b : Byte) : (uaStore b s).uaLen = s.uaLen := rfl
@[simp] theorem uaStore_uaBuf (b : Byte) : (uaStore b s).uaBuf = memWrite s.uaBuf s.uaCnt.toNat b := rfl
@[simp] theorem uaStore_tx0 (b : Byte) : (uaStore b s).tx0 = s.tx0 := rfl
@[simp] theorem uaStore_tx1 (b : Byte) : (uaStore b s).tx1 = s.tx1 := rfl
@[simp] theorem uaStore_cabState (b : Byte) : (uaStore b s).cabState = s.cabState := rfl
@[simp] theorem uaStore_ibCnt (b : Byte) : (uaStore b s).ibCnt = s.ibCnt := rfl
@[simp] theorem uaStore_ibLen (b : Byte) : (uaStore b s).ibLen = s.ibLen := rfl
@[simp] theorem uaStore_ibBuf (b : Byte) : (uaStore b s).ibBuf = s.ibBuf := rfl
@[simp] theorem uaStore_raActive (b : Byte) : (uaStore b s).raActive = s.raActive := rfl
@[simp] theorem uaStore_raSize (b : Byte) : (uaStore b s).raSize = s.raSize := rfl
@[simp] theorem uaStore_raCnt (b : Byte) : (uaStore b s).raCnt = s.raCnt := rfl
@[simp] theorem uaStore_raBuf (b : Byte) : (uaStore b s).raBuf = s.raBuf := rfl
@[simp] theorem uaStore_cabType (b : Byte) : (uaStore b s).cabType = s.cabType := rfl
@[simp] theorem uaStore_cabAddr (b : Byte) : (uaStore b s).cabAddr = s.cabAddr := rfl
@[simp] theorem uaStore_aiu (b : Byte) : (uaStore b s).aiu = s.aiu := rfl
@[simp] theorem uaStore_speed (b : Byte) : (uaStore b s).speed = s.speed := rfl
@[simp] theorem uaStore_key (b : Byte) : (uaStore b s).key = s.key := rfl
@[simp] theorem uaStore_fcHours (b : Byte) : (uaStore b s).fcHours = s.fcHours := rfl
@[simp] theorem uaStore_fcMinutes (b : Byte) : (uaStore b s).fcMinutes = s.fcMinutes := rfl
@[simp] theorem uaStore_fcRate (b : Byte) : (uaStore b s).fcRate = s.fcRate := rfl
@[simp] theorem uaStore_fcMode (b : Byte) : (uaStore b s).fcMode = s.fcMode := rfl
@[simp] theorem uaStore_cfg (b : Byte) : (uaStore b s).cfg = s.cfg := rfl
@[simp] theorem uaStore_inputs (b : Byte) : (uaStore b s).inputs = s.inputs := rfl
@[simp] theorem uaStore_upTx (b : Byte) : (uaStore b s).upTx = s.upTx := rfl
@[simp] theorem uaStore_busTx (b : Byte) : (uaStore b s).busTx = s.busTx := rfl
@[simp] theorem uaStore_evt (b : Byte) : (uaStore b s).evt = s.evt := rfl
@[simp] theorem uaStore_hostOut (b : Byte) : (uaStore b s).hostOut = s.hostOut := rfl

/-! ### `ibStore` -/

@[simp] theorem ibStore_uaCnt (b : Byte) : (ibStore b s).uaCnt = s.uaCnt := rfl
@[simp] theorem ibStore_uaLen (b : Byte) : (ibStore b s).uaLen = s.uaLen := rfl
@[simp] theorem ibStore_uaBuf (b : Byte) : (ibStore b s).uaBuf = s.uaBuf := rfl
@[simp] theorem ibStore_tx0 (b : Byte) : (ibStore b s).tx0 = s.tx0 := rfl
@[simp] theorem ibStore_tx1 (b : Byte) : (ibStore b s).tx1 = s.tx1 := rfl
@[simp] theorem ibStore_cabState (b : Byte) : (ibStore b s).cabState = s.cabState := rfl
@[simp] theorem ibStore_ibCnt (b : Byte) : (ibStore b s).ibCnt = s.ibCnt + 1 := rfl
@[simp] theorem ibStore_ibLen (b : Byte) : (ibStore b s).ibLen = s.ibLen := rfl
@[simp] theorem ibStore_ibBuf (b : Byte) : (ibStore b s).ibBuf = memWrite s.ibBuf s.ibCnt.toNat (storedByte s.cfg.ib s.ibCnt.toNat b) := rfl
@[simp] theorem ibStore_raActive (b : Byte) : (ibStore b s).raActive = s.raActive := rfl
@[simp] theorem ibStore_raSize (b : Byte) : (ibStore b s).raSize = s.raSize := rfl
@[simp] theorem ibStore_raCnt (b : Byte) : (ibStore b s).raCnt = s.raCnt := rfl
@[simp] theorem ibStore_raBuf (b : Byte) : (ibStore b s).raBuf = s.raBuf := rfl
@[simp] theorem ibStore_cabType (b : Byte) : (ibStore b s).cabType = s.cabType := rfl
@[simp] theorem ibStore_cabAddr (b : Byte) : (ibStore b s).cabAddr = s.cabAddr := rfl
@[simp] theorem ibStore_aiu (b : Byte) : (ibStore b s).aiu = s.aiu := rfl
@[simp] theorem ibStore_speed (b : Byte) : (ibStore b s).speed = s.speed := rfl
@[simp] theorem ibStore_key (b : Byte) : (ibStore b s).key = s.key := rfl
@[simp] theorem ibStore_fcHours (b : Byte) : (ibStore b s).fcHours = s.fcHours := rfl
@[simp] theorem ibStore_fcMinutes (b : Byte) : (ibStore b s).fcMinutes = s.fcMinutes := rfl
@[simp] theorem ibStore_fcRate (b : Byte) : (ibStore b s).fcRate = s.fcRate := rfl
@[simp] theorem ibStore_fcMode (b : Byte) : (ibStore b s).fcMode = s.fcMode := rfl
@[simp] theorem ibStore_cfg (b : Byte) : (ibStore b s).cfg = s.cfg := rfl
@[simp] theorem ibStore_inputs (b : Byte) : (ibStore b s).inputs = s.inputs := rfl
@[simp] theorem ibStore_upTx (b : Byte) : (ibStore b s).upTx = s.upTx := rfl
@[simp] theorem ibStore_busTx (b : Byte) : (ibStore b s).busTx = s.busTx := rfl
@[simp] theorem ibStore_evt (b : Byte) : (ibStore b s).evt = s.evt := rfl
@[simp] theorem ibStore_hostOut (b : Byte) : (ibStore b s).hostOut = s.hostOut := rfl

/-! ### `raStore` -/

@[simp] theorem raStore_uaCnt (b : Byte) : (raStore b s).uaCnt = s.uaCnt := rfl
@[simp] theorem raStore_uaLen (b : Byte) : (raStore b s).uaLen = s.uaLen := rfl
@[simp] theorem raStore_uaBuf (b : Byte) : (raStore b s).uaBuf = s.uaBuf := rfl
@[simp] theorem raStore_tx0 (b : Byte) : (raStore b s).tx0 = s.tx0 := rfl
@[simp] theorem raStore_tx1 (b : Byte) : (raStore b s).tx1 = s.tx1 := rfl
@[simp] theorem raStore_cabState (b : Byte) : (raStore b s).cabState = s.cabState := rfl
@[simp] theorem raStore_ibCnt (b : Byte) : (raStore b s).ibCnt = s.ibCnt := rfl
@[simp] theorem raStore_ibLen (b : Byte) : (raStore b s).ibLen = s.ibLen := rfl
@[simp] theorem raStore_ibBuf (b : Byte) : (raStore b s).ibBuf = s.ibBuf := rfl
@[simp] theorem raStore_raActive (b : Byte) : (raStore b s).raActive = s.raActive := rfl
@[simp] theorem raStore_raSize (b : Byte) : (raStore b s).raSize = s.raSize := rfl
@[simp] theorem raStore_raCnt (b : Byte) : (raStore b s).raCnt = s.raCnt + 1 := rfl
@[simp] theorem raStore_raBuf (b : Byte) : (raStore b s).raBuf = memWrite s.raBuf s.raCnt.toNat b := rfl
@[simp] theorem raStore_cabType (b : Byte) : (raStore b s).cabType = s.cabType := rfl
@[simp] theorem raStore_cabAddr (b : Byte) : (raStore b s).cabAddr = s.cabAddr := rfl
@[simp] theorem raStore_aiu (b : Byte) : (raStore b s).aiu = s.aiu := rfl
@[simp] theorem raStore_speed (b : Byte) : (raStore b s).speed = s.speed := rfl
@[simp] theorem raStore_key (b : Byte) : (raStore b s).key = s.key := rfl
@[simp] theorem raStore_fcHours (b : Byte) : (raStore b s).fcHours = s.fcHours := rfl
@[simp] theorem raStore_fcMinutes (b : Byte) : (raStore b s).fcMinutes = s.fcMinutes := rfl
@[simp] theorem raStore_fcRate (b : Byte) : (raStore b s).fcRate = s.fcRate := rfl
@[simp] theorem raStore_fcMode (b : Byte) : (raStore b s).fcMode = s.fcMode := rfl
@[simp] theorem raStore_cfg (b : Byte) : (raStore b s).cfg = s.cfg := rfl
@[simp] theorem raStore_inputs (b : Byte) : (raStore b s).inputs = s.inputs := rfl
@[simp] theorem raStore_upTx (b : Byte) : (raStore b s).upTx = s.upTx := rfl
@[simp] theorem raStore_busTx (b : Byte) : (raStore b s).busTx = s.busTx := rfl
@[simp] theorem raStore_evt (b : Byte) : (raStore b s).evt = s.evt := rfl
@[simp] theorem raStore_hostOut (b : Byte) : (raStore b s).hostOut = s.hostOut := rfl

/-! ### `raStart` -/

@[simp] theorem raStart_uaCnt (n : BitVec 3) : (raStart n s).uaCnt = s.uaCnt := rfl
@[simp] theorem raStart_uaLen (n : BitVec 3) : (raStart n s).uaLen = s.uaLen := rfl
@[simp] theorem raStart_uaBuf (n : BitVec 3) : (raStart n s).uaBuf = s.uaBuf := rfl
@[simp] theorem raStart_tx0 (n : BitVec 3) : (raStart n s).tx0 = s.tx0 := rfl
@[simp] theorem raStart_tx1 (n : BitVec 3) : (raStart n s).tx1 = s.tx1 := rfl
@[simp] theorem raStart_cabState (n : BitVec 3) : (raStart n s).cabState = s.cabState := rfl
@[simp] theorem raStart_ibCnt (n : BitVec 3) : (raStart n s).ibCnt = s.ibCnt := rfl
@[simp] theorem raStart_ibLen (n : BitVec 3) : (raStart n s).ibLen = s.ibLen := rfl
@[simp] theorem raStart_ibBuf (n : BitVec 3) : (raStart n s).ibBuf = s.ibBuf := rfl
@[simp] theorem raStart_raActive (n : BitVec 3) : (raStart n s).raActive = true := rfl
@[simp] theorem raStart_raSize (n : BitVec 3) : (raStart n s).raSize = n := rfl
@[simp] theorem raStart_raCnt (n : BitVec 3) : (raStart n s).raCnt = 0 := rfl
@[simp] theorem raStart_raBuf (n : BitVec 3) : (raStart n s).raBuf = s.raBuf := rfl
@[simp] theorem raStart_cabType (n : BitVec 3) : (raStart n s).cabType = s.cabType := rfl
@[simp] theorem raStart_cabAddr (n : BitVec 3) : (raStart n s).cabAddr = s.cabAddr := rfl
@[simp] theorem raStart_aiu (n : BitVec 3) : (raStart n s).aiu = s.aiu := rfl
@[simp] theorem raStart_speed (n : BitVec 3) : (raStart n s).speed = s.speed := rfl
@[simp] theorem raStart_key (n : BitVec 3) : (raStart n s).key = s.key := rfl
@[simp] theorem raStart_fcHours (n : BitVec 3) : (raStart n s).fcHours = s.fcHours := rfl
@[simp] theorem raStart_fcMinutes (n : BitVec 3) : (raStart n s).fcMinutes = s.fcMinutes := rfl
@[simp] theorem raStart_fcRate (n : BitVec 3) : (raStart n s).fcRate = s.fcRate := rfl
@[simp] theorem raStart_fcMode (n : BitVec 3) : (raStart n s).fcMode = s.fcMode := rfl
@[simp] theorem raStart_cfg (n : BitVec 3) : (raStart n s).cfg = s.cfg := rfl
@[simp] theorem raStart_inputs (n : BitVec 3) : (raStart n s).inputs = s.inputs := rfl
@[simp] theorem raStart_upTx (n : BitVec 3) : (raStart n s).upTx = s.upTx := rfl
@[simp] theorem raStart_busTx (n : BitVec 3) : (raStart n s).busTx = s.busTx := rfl
@[simp] theorem raStart_evt (n : BitVec 3) : (raStart n s).evt = s.evt := rfl
@[simp] theorem raStart_hostOut (n : BitVec 3) : (raStart n s).hostOut = s.hostOut := rfl

/-! ### `pushKeySpeed` -/

@[simp] theorem pushKeySpeed_uaCnt : (pushKeySpeed s).uaCnt = s.uaCnt := rfl
@[simp] theorem pushKeySpeed_uaLen : (pushKeySpeed s).uaLen = s.uaLen := rfl
@[simp] theorem pushKeySpeed_uaBuf : (pushKeySpeed s).uaBuf = s.uaBuf := rfl
@[simp] theorem pushKeySpeed_tx0 : (pushKeySpeed s).tx0 = s.tx0 := rfl
@[simp] theorem pushKeySpeed_tx1 : (pushKeySpeed s).tx1 = s.tx1 := rfl
@[simp] theorem pushKeySpeed_cabState : (pushKeySpeed s).cabState = s.cabState := rfl
@[simp] theorem pushKeySpeed_ibCnt : (pushKeySpeed s).ibCnt = s.ibCnt := rfl
@[simp] theorem pushKeySpeed_ibLen : (pushKeySpeed s).ibLen = s.ibLen := rfl
@[simp] theorem pushKeySpeed_ibBuf : (pushKeySpeed s).ibBuf = s.ibBuf := rfl
@[simp] theorem pushKeySpeed_raActive : (pushKeySpeed s).raActive = s.raActive := rfl
@[simp] theorem pushKeySpeed_raSize : (pushKeySpeed s).raSize = s.raSize := rfl
@[simp] theorem pushKeySpeed_raCnt : (pushKeySpeed s).raCnt = s.raCnt := rfl
@[simp] theorem pushKeySpeed_raBuf : (pushKeySpeed s).raBuf = s.raBuf := rfl
@[simp] theorem pushKeySpeed_cabType : (pushKeySpeed s).cabType = s.cabType := rfl
@[simp] theorem pushKeySpeed_cabAddr : (pushKeySpeed s).cabAddr = s.cabAddr := rfl
@[simp] theorem pushKeySpeed_aiu : (pushKeySpeed s).aiu = s.aiu := rfl
@[simp] theorem pushKeySpeed_speed : (pushKeySpeed s).speed = s.speed := rfl
@[simp] theorem pushKeySpeed_key : (pushKeySpeed s).key = s.cfg.dev.noKey := rfl
@[simp] theorem pushKeySpeed_fcHours : (pushKeySpeed s).fcHours = s.fcHours := rfl
@[simp] theorem pushKeySpeed_fcMinutes : (pushKeySpeed s).fcMinutes = s.fcMinutes := rfl
@[simp] theorem pushKeySpeed_fcRate : (pushKeySpeed s).fcRate = s.fcRate := rfl
@[simp] theorem pushKeySpeed_fcMode : (pushKeySpeed s).fcMode = s.fcMode := rfl
@[simp] theorem pushKeySpeed_cfg : (pushKeySpeed s).cfg = s.cfg := rfl
@[simp] theorem pushKeySpeed_inputs : (pushKeySpeed s).inputs = s.inputs := rfl
@[simp] theorem pushKeySpeed_upTx : (pushKeySpeed s).upTx = s.upTx := rfl
@[simp] theorem pushKeySpeed_busTx : (pushKeySpeed s).busTx = s.busTx ++ [[s.key.setWidth 8, s.speed.setWidth 8]] := rfl
@[simp] theorem pushKeySpeed_evt : (pushKeySpeed s).evt = s.evt := rfl
@[simp] theorem pushKeySpeed_hostOut : (pushKeySpeed s).hostOut = s.hostOut := rfl

@[simp] theorem fcTimeCache_uaCnt (opc : Byte) (text : List Byte) : (fcTimeCache opc text s).uaCnt = s.uaCnt := rfl
@[simp] theorem fcTimeCache_uaLen (opc : Byte) (text : List Byte) : (fcTimeCache opc text s).uaLen = s.uaLen := rfl
@[simp] theorem fcTimeCache_uaBuf (opc : Byte) (text : List Byte) : (fcTimeCache opc text s).uaBuf = s.uaBuf := rfl
@[simp] theorem fcTimeCache_tx0 (opc : Byte) (text : List Byte) : (fcTimeCache opc text s).tx0 = s.tx0 := rfl
@[simp] theorem fcTimeCache_tx1 (opc : Byte) (text : List Byte) : (fcTimeCache opc text s).tx1 = s.tx1 := rfl
@[simp] theorem fcTimeCache_cabState (opc : Byte) (text : List Byte) : (fcTimeCache opc text s).cabState = s.cabState := rfl
@[simp] theorem fcTimeCache_ibCnt (opc : Byte) (text : List Byte) : (fcTimeCache opc text s).ibCnt = s.ibCnt := rfl
@[simp] theorem fcTimeCache_ibLen (opc : Byte) (text : List Byte) : (fcTimeCache opc text s).ibLen = s.ibLen := rfl
@[simp] theorem fcTimeCache_ibBuf (opc : Byte) (text : List Byte) : (fcTimeCache opc text s).ibBuf = s.ibBuf := rfl
@[simp] theorem fcTimeCache_raActive (opc : Byte) (text : List Byte) : (fcTimeCache opc text s).raActive = s.raActive := rfl
@[simp] theorem fcTimeCache_raSize (opc : Byte) (text : List Byte) : (fcTimeCache opc text s).raSize = s.raSize := rfl
@[simp] theorem fcTimeCache_raCnt (opc : Byte) (text : List Byte) : (fcTimeCache opc text s).raCnt = s.raCnt := rfl
@[simp] theorem fcTimeCache_raBuf (opc : Byte) (text : List Byte) : (fcTimeCache opc text s).raBuf = s.raBuf := rfl
@[simp] theorem fcTimeCache_cabType (opc : Byte) (text : List Byte) : (fcTimeCache opc text s).cabType = s.cabType := rfl
@[simp] theorem fcTimeCache_cabAddr (opc : Byte) (text : List Byte) : (fcTimeCache opc text s).cabAddr = s.cabAddr := rfl
@[simp] theorem fcTimeCache_aiu (opc : Byte) (text : List Byte) : (fcTimeCache opc text s).aiu = s.aiu := rfl
@[simp] theorem fcTimeCache_speed (opc : Byte) (text : List Byte) : (fcTimeCache opc text s).speed = s.speed := rfl
@[simp] theorem fcTimeCache_key (opc : Byte) (text : List Byte) : (fcTimeCache opc text s).key = s.key := rfl
@[simp] theorem fcTimeCache_fcRate (opc : Byte) (text : List Byte) : (fcTimeCache opc text s).fcRate = s.fcRate := rfl
@[simp] theorem fcTimeCache_cfg (opc : Byte) (text : List Byte) : (fcTimeCache opc text s).cfg = s.cfg := rfl
@[simp] theorem fcTimeCache_inputs (opc : Byte) (text : List Byte) : (fcTimeCache opc text s).inputs = s.inputs := rfl
@[simp] theorem fcTimeCache_upTx (opc : Byte) (text : List Byte) : (fcTimeCache opc text s).upTx = s.upTx := rfl
@[simp] theorem fcTimeCache_busTx (opc : Byte) (text : List Byte) : (fcTimeCache opc text s).busTx = s.busTx := rfl
@[simp] theorem fcTimeCache_evt (opc : Byte) (text : List Byte) : (fcTimeCache opc text s).evt = s.evt := rfl
@[simp] theorem fcTimeCache_hostOut (opc : Byte) (text : List Byte) : (fcTimeCache opc text s).hostOut = s.hostOut := rfl

@[simp] theorem resetState_cfg : (resetState s).cfg = s.cfg := rfl
@[simp] theorem resetState_inputs : (resetState s).inputs = s.inputs := rfl
@[simp] theorem resetState_upTx : (resetState s).upTx = s.upTx := rfl
@[simp] theorem resetState_busTx : (resetState s).busTx = s.busTx := rfl
@[simp] theorem resetState_evt : (resetState s).evt = s.evt := rfl
@[simp] theorem resetState_hostOut : (resetState s).hostOut = s.hostOut := rfl

/-! ### Latches: the length alone may change -/

@[simp] theorem uaLatch_uaCnt (b : Byte) : (uaLatch b s).uaCnt = s.uaCnt := by unfold uaLatch; split <;> rfl
@[simp] theorem uaLatch_uaBuf (b : Byte) : (uaLatch b s).uaBuf = s.uaBuf := by unfold uaLatch; split <;> rfl
@[simp] theorem uaLatch_tx0 (b : Byte) : (uaLatch b s).tx0 = s.tx0 := by unfold uaLatch; split <;> rfl
@[simp] theorem uaLatch_tx1 (b : Byte) : (uaLatch b s).tx1 = s.tx1 := by unfold uaLatch; split <;> rfl
@[simp] theorem uaLatch_cabState (b : Byte) : (uaLatch b s).cabState = s.cabState := by unfold uaLatch; split <;> rfl
@[simp] theorem uaLatch_ibCnt (b : Byte) : (uaLatch b s).ibCnt = s.ibCnt := by unfold uaLatch; split <;> rfl
@[simp] theorem uaLatch_ibLen (b : Byte) : (uaLatch b s).ibLen = s.ibLen := by unfold uaLatch; split <;> rfl
@[simp] theorem uaLatch_ibBuf (b : Byte) : (uaLatch b s).ibBuf = s.ibBuf := by unfold uaLatch; split <;> rfl
@[simp] theorem uaLatch_raActive (b : Byte) : (uaLatch b s).raActive = s.raActive := by unfold uaLatch; split <;> rfl
@[simp] theorem uaLatch_raSize (b : Byte) : (uaLatch b s).raSize = s.raSize := by unfold uaLatch; split <;> rfl
@[simp] theorem uaLatch_raCnt (b : Byte) : (uaLatch b s).raCnt = s.raCnt := by unfold uaLatch; split <;> rfl
@[simp] theorem uaLatch_raBuf (b : Byte) : (uaLatch b s).raBuf = s.raBuf := by unfold uaLatch; split <;> rfl
@[simp] theorem uaLatch_cabType (b : Byte) : (uaLatch b s).cabType = s.cabType := by unfold uaLatch; split <;> rfl
@[simp] theorem uaLatch_cabAddr (b : Byte) : (uaLatch b s).cabAddr = s.cabAddr := by unfold uaLatch; split <;> rfl
@[simp] theorem uaLatch_aiu (b : Byte) : (uaLatch b s).aiu = s.aiu := by unfold uaLatch; split <;> rfl
@[simp] theorem uaLatch_speed (b : Byte) : (uaLatch b s).speed = s.speed := by unfold uaLatch; split <;> rfl
@[simp] theorem uaLatch_key (b : Byte) : (uaLatch b s).key = s.key := by unfold uaLatch; split <;> rfl
@[simp] theorem uaLatch_fcHours (b : Byte) : (uaLatch b s).fcHours = s.fcHours := by unfold uaLatch; split <;> rfl
@[simp] theorem uaLatch_fcMinutes (b : Byte) : (uaLatch b s).fcMinutes = s.fcMinutes := by unfold uaLatch; split <;> rfl
@[simp] theorem uaLatch_fcRate (b : Byte) : (uaLatch b s).fcRate = s.fcRate := by unfold uaLatch; split <;> rfl
@[simp] theorem uaLatch_fcMode (b : Byte) : (uaLatch b s).fcMode = s.fcMode := by unfold uaLatch; split <;> rfl
@[simp] theorem uaLatch_cfg (b : Byte) : (uaLatch b s).cfg = s.cfg := by unfold uaLatch; split <;> rfl
@[simp] theorem uaLatch_inputs (b : Byte) : (uaLatch b s).inputs = s.inputs := by unfold uaLatch; split <;> rfl
@[simp] theorem uaLatch_upTx (b : Byte) : (uaLatch b s).upTx = s.upTx := by unfold uaLatch; split <;> rfl
@[simp] theorem uaLatch_busTx (b : Byte) : (uaLatch b s).busTx = s.busTx := by unfold uaLatch; split <;> rfl
@[simp] theorem uaLatch_evt (b : Byte) : (uaLatch b s).evt = s.evt := by unfold uaLatch; split <;> rfl
@[simp] theorem uaLatch_hostOut (b : Byte) : (uaLatch b s).hostOut = s.hostOut := by unfold uaLatch; split <;> rfl

@[simp] theorem ibLatch_uaCnt (b : Byte) : (ibLatch b s).uaCnt = s.uaCnt := by unfold ibLatch; split <;> rfl
@[simp] theorem ibLatch_uaLen (b : Byte) : (ibLatch b s).uaLen = s.uaLen := by unfold ibLatch; split <;> rfl
@[simp] theorem ibLatch_uaBuf (b : Byte) : (ibLatch b s).uaBuf = s.uaBuf := by unfold ibLatch; split <;> rfl
@[simp] theorem ibLatch_tx0 (b : Byte) : (ibLatch b s).tx0 = s.tx0 := by unfold ibLatch; split <;> rfl
@[simp] theorem ibLatch_tx1 (b : Byte) : (ibLatch b s).tx1 = s.tx1 := by unfold ibLatch; split <;> rfl
@[simp] theorem ibLatch_cabState (b : Byte) : (ibLatch b s).cabState = s.cabState := by unfold ibLatch; split <;> rfl
@[simp] theorem ibLatch_ibCnt (b : Byte) : (ibLatch b s).ibCnt = s.ibCnt := by unfold ibLatch; split <;> rfl
@[simp] theorem ibLatch_ibBuf (b : Byte) : (ibLatch b s).ibBuf = s.ibBuf := by unfold ibLatch; split <;> rfl
@[simp] theorem ibLatch_raActive (b : Byte) : (ibLatch b s).raActive = s.raActive := by unfold ibLatch; split <;> rfl
@[simp] theorem ibLatch_raSize (b : Byte) : (ibLatch b s).raSize = s.raSize := by unfold ibLatch; split <;> rfl
@[simp] theorem ibLatch_raCnt (b : Byte) : (ibLatch b s).raCnt = s.raCnt := by unfold ibLatch; split <;> rfl
@[simp] theorem ibLatch_raBuf (b : Byte) : (ibLatch b s).raBuf = s.raBuf := by unfold ibLatch; split <;> rfl
@[simp] theorem ibLatch_cabType (b : Byte) : (ibLatch b s).cabType = s.cabType := by unfold ibLatch; split <;> rfl
@[simp] theorem ibLatch_cabAddr (b : Byte) : (ibLatch b s).cabAddr = s.cabAddr := by unfold ibLatch; split <;> rfl
@[simp] theorem ibLatch_aiu (b : Byte) : (ibLatch b s).aiu = s.aiu := by unfold ibLatch; split <;> rfl
@[simp] theorem ibLatch_speed (b : Byte) : (ibLatch b s).speed = s.speed := by unfold ibLatch; split <;> rfl
@[simp] theorem ibLatch_key (b : Byte) : (ibLatch b s).key = s.key := by unfold ibLatch; split <;> rfl
@[simp] theorem ibLatch_fcHours (b : Byte) : (ibLatch b s).fcHours = s.fcHours := by unfold ibLatch; split <;> rfl
@[simp] theorem ibLatch_fcMinutes (b : Byte) : (ibLatch b s).fcMinutes = s.fcMinutes := by unfold ibLatch; split <;> rfl
@[simp] theorem ibLatch_fcRate (b : Byte) : (ibLatch b s).fcRate = s.fcRate := by unfold ibLatch; split <;> rfl
@[simp] theorem ibLatch_fcMode (b : Byte) : (ibLatch b s).fcMode = s.fcMode := by unfold ibLatch; split <;> rfl
@[simp] theorem ibLatch_cfg (b : Byte) : (ibLatch b s).cfg = s.cfg := by unfold ibLatch; split <;> rfl
@[simp] theorem ibLatch_inputs (b : Byte) : (ibLatch b s).inputs = s.inputs := by unfold ibLatch; split <;> rfl
@[simp] theorem ibLatch_upTx (b : Byte) : (ibLatch b s).upTx = s.upTx := by unfold ibLatch; split <;> rfl
@[simp] theorem ibLatch_busTx (b : Byte) : (ibLatch b s).busTx = s.busTx := by unfold ibLatch; split <;> rfl
@[simp] theorem ibLatch_evt (b : Byte) : (ibLatch b s).evt = s.evt := by unfold ibLatch; split <;> rfl
@[simp] theorem ibLatch_hostOut (b : Byte) : (ibLatch b s).hostOut = s.hostOut := by unfold ibLatch; split <;> rfl

end Sys2Proof.Machine
end

