-- ==== Sys2Proof/Laws/Ops.lean ====
section
/-! SUPPORT. One lemma per shared operation that says once everything it can do. -/

namespace Sys2Proof.Machine

/-! ### Emissions -/

theorem respondIf_eq (imm : Bool) (s : State) : respondIf imm s = { s with upTx := withOk imm s } := by
  cases imm <;> rfl

theorem raiseCond_eq (x : Cond) (s : State) :
    raiseCond x s = { s with upTx := s.upTx ++ [[condCode s.cfg.rsp x]] } := rfl

/-! ### Staging -/

/-- A filled slot holds its frame with the checksum (rule R121). -/
theorem fillSlot_holds (t : TxSlot) (g0 g1 g2 g3 : Byte) : holdsFrame (fillSlot t g0 g1 g2 g3) g0 g1 g2 g3 := by
  refine ⟨rfl, ?_, ?_, ?_, ?_, ?_⟩ <;> simp [fillSlot, memRead_writeList, frameOf, xor4]

/-- A filled slot keeps the bytes above its frame. -/
theorem fillSlot_above (t : TxSlot) (g0 g1 g2 g3 : Byte) : sameAbove t (fillSlot t g0 g1 g2 g3) := by
  intro a ha
  have : ¬ a < 5 := by simpa [frameSize] using ha
  simp [fillSlot, memRead_writeList, frameOf, this]

theorem fillSlot_wf (t : TxSlot) (g0 g1 g2 g3 : Byte) (h : Memory.wf t.buf = true) :
    Memory.wf (fillSlot t g0 g1 g2 g3).buf = true := memWriteList_wf _ _ _ h

theorem fillSlot_below (t : TxSlot) (g0 g1 g2 g3 : Byte) (h : memBelow frameSize t.buf = true) :
    memBelow frameSize (fillSlot t g0 g1 g2 g3).buf = true :=
  memWriteList_below _ _ _ _ (by simp [frameOf, frameSize]) h

/-- A held frame has a right checksum. -/
theorem holdsFrame_sound {t : TxSlot} {g0 g1 g2 g3 : Byte} (h : holdsFrame t g0 g1 g2 g3) : slotSound t := by
  obtain ⟨hc, h0, h1, h2, h3, h4⟩ := h
  exact .inr ⟨hc, by rw [h0, h1, h2, h3, h4]; rfl⟩

/-! ### The translator's classes -/

theorem fixedCmd_eq (p : FixedParams) (g3 : Byte) (s : State) :
    fixedCmd p g3 s = { stage1 p.k0 p.k1 p.k2 g3 s with upTx := withOk p.imm s } := by
  unfold fixedCmd; rw [respondIf_eq]; rfl

/-- ADDR_CTRL answers the range error and nothing else, or stages one frame. -/
theorem addrCtrl_cases (limit : Word16) (imm : Bool) (addr : Word16) (op data : Byte) (s : State) :
    (limit < addr ∧ addrCtrl limit imm addr op data s = raiseCond .addressOutOfRange s) ∨
    (addr ≤ limit ∧ addrCtrl limit imm addr op data s =
      { stage1 (addrEnc addr).1 (addrEnc addr).2 op data s with upTx := withOk imm s }) := by
  unfold addrCtrl
  by_cases h : addr > limit
  · exact .inl ⟨h, by simp [h]⟩
  · refine .inr ⟨BitVec.not_lt.1 h, ?_⟩
    rw [if_neg h, respondIf_eq]; rfl

/-- CV answers the range error and nothing else, or stages one frame. -/
theorem cvCmd_cases (p : CvParams) (addr : Word16) (data : Byte) (s : State) :
    (cvAddrMax < addr ∧ cvCmd p addr data s = raiseCond .cvOutOfRange s) ∨
    (addr ≤ cvAddrMax ∧ cvCmd p addr data s =
      { stage1 p.busop (cvPack p.base addr data).1 (cvPack p.base addr data).2.1 (cvPack p.base addr data).2.2 s with
        upTx := withOk p.imm s }) := by
  unfold cvCmd
  by_cases h : addr > cvAddrMax
  · exact .inl ⟨h, by simp [h]⟩
  · refine .inr ⟨BitVec.not_lt.1 h, ?_⟩
    rw [if_neg h, respondIf_eq]; rfl

/-- OPS answers one of the two range errors and nothing else, the address first, or stages two frames. -/
theorem opsCmd_cases (limit : Word16) (p : OpsParams) (addr cv : Word16) (data : Byte) (s : State) :
    (limit < addr ∧ opsCmd limit p addr cv data s = raiseCond .addressOutOfRange s) ∨
    (addr ≤ limit ∧ cvAddrMax < cv ∧ opsCmd limit p addr cv data s = raiseCond .cvOutOfRange s) ∨
    (addr ≤ limit ∧ cv ≤ cvAddrMax ∧ opsCmd limit p addr cv data s =
      { stage2 (addrEnc addr).1 (addrEnc addr).2 p.kOp p.kData p.busop (cvPack p.base cv data).1
          (cvPack p.base cv data).2.1 (cvPack p.base cv data).2.2 s with upTx := withOk p.imm s }) := by
  unfold opsCmd
  by_cases h : addr > limit
  · exact .inl ⟨h, by simp [h]⟩
  · by_cases h' : cv > cvAddrMax
    · exact .inr (.inl ⟨BitVec.not_lt.1 h, h', by simp [h, h']⟩)
    · refine .inr (.inr ⟨BitVec.not_lt.1 h, BitVec.not_lt.1 h', ?_⟩)
      rw [if_neg h, if_neg h', respondIf_eq]; rfl

/-! ### The poll turn -/

/-- The frame a slot transmits, byte by byte. -/
theorem slotFrame_eq (t : TxSlot) :
    slotFrame t = [memRead t.buf 0, memRead t.buf 1, memRead t.buf 2, memRead t.buf 3, memRead t.buf 4] := rfl

/-- What `FLUSH` transmits. -/
theorem flush_eq (s : State) :
    flush s =
      { s with
        busTx := s.busTx ++ (if pending s.tx0 then [slotFrame s.tx0] else []) ++
          (if pending s.tx1 then [slotFrame s.tx1] else [])
        tx0 := { s.tx0 with cnt := 0 }
        tx1 := { s.tx1 with cnt := 0 } } := by
  have empty : ∀ t : TxSlot, pending t = false → (⟨0#3, t.buf⟩ : TxSlot) = t := by
    intro t h
    have : t.cnt = 0 := by simpa [pending] using h
    rw [show (0#3) = t.cnt from this.symm]
  unfold flush flush1 flush0
  cases h0 : pending s.tx0 <;> cases h1 : pending s.tx1
  · simp [h1]; rw [empty _ h0, empty _ h1]
  · simp [h1, emitBus]; exact (empty _ h0).symm
  · simp [h1, emitBus]; exact (empty _ h1).symm
  · simp [h1, emitBus]

/-- Everything a poll turn can do: transmit the staged frames, report the key, report the accessory inputs, or
nothing (rule R152). -/
theorem pollReact_cases (s : State) :
    (flushingType s.cfg.dev s.cabType = true ∧ anyPending s = true ∧ pollReact s = flush s) ∨
    (flushingType s.cfg.dev s.cabType = true ∧ anyPending s = false ∧ s.cabType ≠ s.cfg.dev.cabTypeSmart ∧
      pollReact s = pushKeySpeed s) ∨
    (flushingType s.cfg.dev s.cabType = true ∧ anyPending s = false ∧ s.cabType = s.cfg.dev.cabTypeSmart ∧
      pollReact s = s) ∨
    (flushingType s.cfg.dev s.cabType = false ∧ s.cabType = s.cfg.dev.cabTypeAiu ∧ pollReact s = pushAiu s) ∨
    (flushingType s.cfg.dev s.cabType = false ∧ s.cabType ≠ s.cfg.dev.cabTypeAiu ∧ pollReact s = s) := by
  unfold pollReact
  cases flushingType s.cfg.dev s.cabType <;> cases anyPending s <;>
    by_cases h1 : s.cabType = s.cfg.dev.cabTypeSmart <;> by_cases h2 : s.cabType = s.cfg.dev.cabTypeAiu <;>
    simp_all

/-- Everything a poll byte can do (rule R151). -/
theorem pollTurn_cases (a : BitVec 6) (s : State) :
    (a = 0 ∧ pollTurn a s = { s with ibCnt := 0, cabState := .execBroadcastCmd }) ∨
    (a ≠ 0 ∧ a ≠ s.cabAddr ∧ pollTurn a s = { s with ibCnt := 0, cabState := .pingOther }) ∨
    (a ≠ 0 ∧ a = s.cabAddr ∧ pollTurn a s = pollReact { s with ibCnt := 0, cabState := .execMyCmd }) := by
  unfold pollTurn broadcastAddr
  by_cases h0 : a = 0
  · exact .inl ⟨h0, by simp [h0]⟩
  · by_cases h1 : a = s.cabAddr
    · exact .inr (.inr ⟨h0, h1, by rw [if_neg h0, if_neg (not_not.2 h1)]⟩)
    · exact .inr (.inl ⟨h0, h1, by rw [if_neg h0, if_pos h1]⟩)

/-- A poll turn changes the slots' counts, the key and `bus_tx` only. -/
theorem pollReact_frame (s : State) :
    pollReact s =
      { s with
        tx0 := { s.tx0 with cnt := (pollReact s).tx0.cnt }
        tx1 := { s.tx1 with cnt := (pollReact s).tx1.cnt }
        key := (pollReact s).key
        busTx := (pollReact s).busTx } := by
  rcases pollReact_cases s with ⟨_, _, h⟩ | ⟨_, _, _, h⟩ | ⟨_, _, _, h⟩ | ⟨_, _, h⟩ | ⟨_, _, h⟩ <;> rw [h]
  · rw [flush_eq]
  · rfl
  · rfl

/-- After a poll turn both slots are as they were, or both are empty. -/
theorem pollReact_slots (s : State) :
    ((pollReact s).tx0 = s.tx0 ∧ (pollReact s).tx1 = s.tx1) ∨
    ((pollReact s).tx0 = { s.tx0 with cnt := 0 } ∧ (pollReact s).tx1 = { s.tx1 with cnt := 0 }) := by
  rcases pollReact_cases s with ⟨_, _, h⟩ | ⟨_, _, _, h⟩ | ⟨_, _, _, h⟩ | ⟨_, _, h⟩ | ⟨_, _, h⟩ <;> rw [h]
  · rw [flush_eq]; exact .inr ⟨rfl, rfl⟩
  · exact .inl ⟨rfl, rfl⟩
  · exact .inl ⟨rfl, rfl⟩
  · exact .inl ⟨rfl, rfl⟩
  · exact .inl ⟨rfl, rfl⟩

/-! ### The fast clock -/

/-- The time broadcast updates the cache, and then emits one event or none (rule R178). -/
theorem fcTime_cases (opc : Byte) (text : List Byte) (s : State) :
    (fastClockDue (fcTimeCache opc text s) = true ∧ fcTime opc text s = fastClockEvt (fcTimeCache opc text s)) ∨
    (fastClockDue (fcTimeCache opc text s) = false ∧ fcTime opc text s = fcTimeCache opc text s) := by
  unfold fcTime
  cases h : fastClockDue (fcTimeCache opc text s) <;> simp [h]

/-- A time broadcast establishes a clock mode (rule R25). -/
theorem fcModeOf_established (ch : Byte) : fcModeOf ch ≠ .none := by
  unfold fcModeOf; split
  · decide
  · split <;> decide

/-- The rate broadcast does nothing, updates the rate, or updates it and emits one event (rule R179). -/
theorem fcRateCmd_cases (r : Byte) (s : State) :
    (fcRateOf r = s.fcRate ∧ fcRateCmd r s = s) ∨
    (fcRateOf r ≠ s.fcRate ∧ fastClockDue { s with fcRate := fcRateOf r } = false ∧
      fcRateCmd r s = { s with fcRate := fcRateOf r }) ∨
    (fcRateOf r ≠ s.fcRate ∧ fastClockDue { s with fcRate := fcRateOf r } = true ∧
      fcRateCmd r s = fastClockEvt { s with fcRate := fcRateOf r }) := by
  unfold fcRateCmd
  by_cases h : fcRateOf r = s.fcRate
  · exact .inl ⟨h, by simp [h]⟩
  · cases h' : fastClockDue { s with fcRate := fcRateOf r } <;> simp [h, h']

/-- A decimal field of one character is below 10 (rule R100). -/
theorem dig_toNat (c : Byte) : (dig c).toNat ≤ 9 := by
  unfold dig
  split
  · next h =>
    obtain ⟨h1, h2⟩ := h
    have h1' : 48 ≤ c.toNat := h1
    have h2' : c.toNat ≤ 57 := h2
    rw [BitVec.toNat_sub_of_le h1]
    show c.toNat - 48 ≤ 9
    omega
  · decide

/-- A decimal field of two characters is at most 99, and its sum does not wrap (rule R100). -/
theorem dec2_toNat (c1 c0 : Byte) : (dec2 c1 c0).toNat = 10 * (dig c1).toNat + (dig c0).toNat := by
  have h1 := dig_toNat c1
  have h0 := dig_toNat c0
  unfold dec2
  rw [BitVec.toNat_add, BitVec.toNat_mul]
  show (10 * (dig c1).toNat % 256 + (dig c0).toNat) % 256 = _
  omega

theorem dec2_le (c1 c0 : Byte) : dec2 c1 c0 ≤ 99 := by
  have h1 := dig_toNat c1
  have h0 := dig_toNat c0
  have h := dec2_toNat c1 c0
  show (dec2 c1 c0).toNat ≤ 99
  omega

/-! ### Host accesses -/

/-- A host write changes the five writable registers only (rules R202, R209). -/
theorem regWrite_frame (s : State) (reg : Byte) (v : Word16) :
    regWrite s reg v =
      { s with
        cabType := (regWrite s reg v).cabType, cabAddr := (regWrite s reg v).cabAddr,
        speed := (regWrite s reg v).speed, key := (regWrite s reg v).key, aiu := (regWrite s reg v).aiu } := by
  unfold regWrite
  split_ifs <;> rfl

end Sys2Proof.Machine
end

