-- ==== Sys2Proof/Laws/Feed.lean ====
section
/-! SUPPORT. What each port machine, and a step, can do: one inversion lemma per function. -/

namespace Sys2Proof.Machine

/-! ### Plumbing -/

theorem andThen_next {r : Result} {f : State → Result} {t : State} (h : andThen r f = .next t) :
    ∃ s, r = .next s ∧ f s = .next t := by
  cases r with
  | next s => exact ⟨s, rfl, h⟩
  | fault x => cases h
  | refused x => cases h

@[simp] theorem andThen_of_next (s : State) (f : State → Result) : andThen (.next s) f = f s := rfl

/-- A unit that answers a next state was decoded and run, or was a command of class NONE (rule R177). -/
theorem runUnit_next {w : Wire} {s t : State} (h : runUnit w s = .next t) :
    (∃ i, decode s.cfg w = .ok i ∧ exec i s = .next t) ∨ (decode s.cfg w = .error .noClass ∧ t = s) := by
  unfold runUnit at h
  split at h
  · next i hd => exact .inl ⟨i, hd, h⟩
  · next hd => exact .inr ⟨hd, by cases h; rfl⟩
  · cases h

theorem runUnit_of_ok {w : Wire} {s : State} {i : Instr} (h : decode s.cfg w = .ok i) : runUnit w s = exec i s := by
  unfold runUnit; rw [h]

theorem runUnit_of_noClass {w : Wire} {s : State} (h : decode s.cfg w = .error .noClass) : runUnit w s = .next s := by
  unfold runUnit; rw [h]

/-- A machine that answers a next state stored a byte, ran a unit of one byte, or completed and ran a unit. -/
theorem runFetch_next {clear : State → State} {x : Fetch} {t : State} (h : runFetch clear x = .next t) :
    x = .more t ∨ (∃ w u, x = .single w u ∧ runUnit w u = .next t) ∨
      (∃ w u v, x = .complete w u ∧ runUnit w u = .next v ∧ t = clear v) := by
  cases x with
  | more s => cases h; exact .inl rfl
  | single w s => exact .inr (.inl ⟨w, s, rfl, h⟩)
  | complete w s =>
    obtain ⟨v, hv, ht⟩ := andThen_next h
    exact .inr (.inr ⟨w, s, v, rfl, hv, by cases ht; rfl⟩)
  | stop f => cases h

/-- Every unit has a meaning that answers a next state: nothing on a wire stops the framer (rule R224). -/
theorem exec_answers (i : Instr) (s : State) : ∃ t, exec i s = .next t := by
  cases i <;> exact ⟨_, rfl⟩

/-! ### The machines -/

theorem upFetch_cases (b : Byte) (s : State) :
    (uaBufSize ≤ s.uaCnt.toNat ∧ upFetch b s = .stop (.bufferOverrun .ua)) ∨
    (s.uaCnt.toNat < uaBufSize ∧ s.uaCnt + 1 ≠ (uaLatch b s).uaLen ∧
      upFetch b s = .more (uaStore b (uaLatch b s))) ∨
    (s.uaCnt.toNat < uaBufSize ∧ s.uaCnt + 1 = (uaLatch b s).uaLen ∧
      upFetch b s = .complete (.up (uaPacket (uaStore b (uaLatch b s)))) (uaStore b (uaLatch b s))) := by
  unfold upFetch
  by_cases h : s.uaCnt.toNat < uaBufSize
  · by_cases h' : s.uaCnt + 1 = (uaLatch b s).uaLen
    · exact .inr (.inr ⟨h, h', by simp [h]; exact h'⟩)
    · exact .inr (.inl ⟨h, h', by simp [h]; exact h'⟩)
  · exact .inl ⟨Nat.le_of_not_lt h, by simp [h]⟩

theorem pcFetch_cases (b : Byte) (s : State) :
    (pcSingle b s = true ∧ pcFetch b s = .single (.pc s.cabState [b]) s) ∨
    (pcSingle b s = false ∧ ibBufSize ≤ s.ibCnt.toNat ∧ pcFetch b s = .stop (.bufferOverrun .ib)) ∨
    (pcSingle b s = false ∧ s.ibCnt.toNat < ibBufSize ∧ s.ibCnt + 1 ≠ (ibLatch b s).ibLen ∧
      pcFetch b s = .more (ibStore b (ibLatch b s))) ∨
    (pcSingle b s = false ∧ s.ibCnt.toNat < ibBufSize ∧ s.ibCnt + 1 = (ibLatch b s).ibLen ∧
      pcFetch b s = .complete (.pc s.cabState (ibFrame (ibStore b (ibLatch b s)))) (ibStore b (ibLatch b s))) := by
  unfold pcFetch
  cases hp : pcSingle b s
  · by_cases h : s.ibCnt.toNat < ibBufSize
    · by_cases h' : s.ibCnt + 1 = (ibLatch b s).ibLen
      · exact .inr (.inr (.inr ⟨rfl, h, h', by simp [h]; exact h'⟩))
      · exact .inr (.inr (.inl ⟨rfl, h, h', by simp [h]; exact h'⟩))
    · exact .inr (.inl ⟨rfl, Nat.le_of_not_lt h, by simp [h]⟩)
  · exact .inl ⟨rfl, by simp⟩

theorem raTake_cases (b : Byte) (s : State) :
    (raBufSize ≤ s.raCnt.toNat ∧ raTake b s = .stop (.bufferOverrun .ra)) ∨
    (s.raCnt.toNat < raBufSize ∧ s.raCnt + 1 ≠ s.raSize ∧ raTake b s = .more (raStore b s)) ∨
    (s.raCnt.toNat < raBufSize ∧ s.raCnt + 1 = s.raSize ∧
      raTake b s = .complete (.ra (raFrame (raStore b s))) (raStore b s)) := by
  unfold raTake
  by_cases h : s.raCnt.toNat < raBufSize
  · by_cases h' : s.raCnt + 1 = s.raSize
    · exact .inr (.inr ⟨h, h', by rw [if_pos h]; exact if_pos h'⟩)
    · exact .inr (.inl ⟨h, h', by rw [if_pos h]; exact if_neg h'⟩)
  · exact .inl ⟨Nat.le_of_not_lt h, by simp [h]⟩

theorem raFetch_cases (b : Byte) (s : State) :
    (s.raActive = true ∧ raFetch b s = raTake b s) ∨
    (s.raActive = false ∧ (∃ n, raSizeOf b = some n ∧ raFetch b s = raTake b (raStart n s))) ∨
    (s.raActive = false ∧ raSizeOf b = none ∧ raFetch b s = .single (.ra [b]) s) := by
  unfold raFetch
  cases ha : s.raActive
  · cases hn : raSizeOf b with
    | none => exact .inr (.inr ⟨rfl, rfl, rfl⟩)
    | some n => exact .inr (.inl ⟨rfl, n, rfl, rfl⟩)
  · exact .inl ⟨rfl, rfl⟩

/-- A lead byte is one of the three (rule R67). -/
theorem raSizeOf_some {b : Byte} {n : BitVec 3} (h : raSizeOf b = some n) :
    (b = 0xD8 ∧ n = 3) ∨ (b = 0xD9 ∧ n = 4) ∨ (b = 0xDA ∧ n = 7) := by
  unfold raSizeOf at h
  split_ifs at h with h1 h2 h3 <;> simp_all

/-! ### Bus bytes and steps -/

theorem busFeed_next {b : Byte} {p r : Bool} {s t : State} (h : busFeed b p r s = .next t) :
    ∃ u, (if p then pcFeed b s else .next s) = .next u ∧ (if r then raFeed b u else .next u) = .next t :=
  andThen_next h

/-- A step that answers a next state had a well-formed configuration, and was idle or consumed the oldest
transaction presented. -/
theorem step_next {s t : State} (h : step s = .next t) :
    s.cfg.wellFormed = true ∧
      ((s.inputs = [] ∧ t = s) ∨ (∃ x rest, s.inputs = x :: rest ∧ consume x { s with inputs := rest } = .next t)) := by
  unfold step stepOnce at h
  split at h
  · next hw =>
    refine ⟨hw, ?_⟩
    split at h
    · next hi => exact .inl ⟨hi, by cases h; rfl⟩
    · next x rest hi => exact .inr ⟨x, rest, hi, h⟩
  · cases h

theorem step_of_inputs {s : State} {x : Input} {rest : List Input} (hw : s.cfg.wellFormed = true)
    (hi : s.inputs = x :: rest) : step s = consume x { s with inputs := rest } := by
  unfold step stepOnce
  rw [if_pos hw, hi]

end Sys2Proof.Machine
end

