-- ==== Sys2Proof/Laws/Units.lean ====
section
/-! SUPPORT. What the units of each port can do, whichever unit was decoded, and what each port machine and a step
can change: the proofs about runs cite these instead of the 64 meanings. -/

namespace Sys2Proof.Machine

/-! ### Entries of a well-formed configuration (rule R1) -/

theorem upEntry_ok {c : Cfg} (hw : c.wellFormed = true) {b : Byte} {e : UpEntry} (h : upEntry c.up b = some e) :
    e.ok = true := by
  have ht : c.up.table.all UpEntry.ok = true := by
    simp only [Cfg.wellFormed, UpCfg.ok, Bool.and_eq_true] at hw; exact hw.1.1.1.2
  exact List.all_eq_true.1 ht e (List.mem_of_find?_eq_some h)

theorem addrEntry_ok {c : Cfg} (hw : c.wellFormed = true) {b : Byte} {e : AddrEntry}
    (h : addrEntry c.ib b = some e) : ibEntryOk b e.len e.cls.frameLen = true := by
  have ht : c.ib.addressed.all (fun e => ibEntryOk e.opcode e.len e.cls.frameLen) = true := by
    simp only [Cfg.wellFormed, IbCfg.ok, Bool.and_eq_true] at hw; exact hw.1.2.1.1.1.1.1.1.1.1
  have hb : e.opcode = b := by simpa using List.find?_some h
  rw [← hb]; exact List.all_eq_true.1 ht e (List.mem_of_find?_eq_some h)

theorem bcastEntry_ok {c : Cfg} (hw : c.wellFormed = true) {b : Byte} {e : BcastEntry}
    (h : bcastEntry c.ib b = some e) : ibEntryOk b e.len e.cls.frameLen = true := by
  have ht : c.ib.broadcast.all (fun e => ibEntryOk e.opcode e.len e.cls.frameLen) = true := by
    simp only [Cfg.wellFormed, IbCfg.ok, Bool.and_eq_true] at hw; exact hw.1.2.1.1.1.1.1.1.1.2
  have hb : e.opcode = b := by simpa using List.find?_some h
  rw [← hb]; exact List.all_eq_true.1 ht e (List.mem_of_find?_eq_some h)

theorem asciiFrom_pos {c : Cfg} (hw : c.wellFormed = true) : 1 ≤ c.ib.asciiFrom := by
  simp only [Cfg.wellFormed, IbCfg.ok, Bool.and_eq_true, decide_eq_true_eq] at hw
  exact hw.1.2.1.1.1.1.1.1.2

/-! ### Upstream units -/

/-- Is `i` an upstream unit? -/
def isUpUnit : Instr → Bool
  | .upNop _ | .upNopCrlf _ | .upUnsupported _ _ | .upOutOfRange _ | .upFwVer _ | .upStatus _ _ | .upMacro _ _
  | .upProgEnter _ | .upProgExit _ | .upLocoCtrl _ _ _ _ | .upAccCtrl _ _ _ _ | .upCvProgPaged _ _ _
  | .upCvProgDirect _ _ _ | .upCvReadPaged _ _ | .upCvReadDirect _ _ | .upRegProg _ _ _ | .upRegRead _ _
  | .upOpsLoco _ _ _ _ | .upOpsAcc _ _ _ _ => true
  | _ => false

/-- What an upstream packet decodes to is an upstream unit. -/
theorem decode_up_unit {c : Cfg} {p : List Byte} {i : Instr} (h : decode c (.up p) = .ok i) : isUpUnit i = true := by
  cases p with
  | nil => simp [decode, decodeUp] at h
  | cons opc rest =>
    by_cases hr : upInRange c.up opc = true
    · simp only [decode, decodeUp, hr, if_true] at h
      cases hk : upClassOf c.up opc <;> rw [hk] at h <;>
        simp only [decodeUpClass, formatU1, formatU2, formatU3, formatU3R, formatU4, formatU5, formatU6,
          formatList] at h <;>
        split at h <;> cases h <;> rfl
    · simp only [decode, decodeUp, hr] at h
      cases rest with
      | nil => cases h; rfl
      | cons => simp [formatU1] at h

/-- An upstream unit emits one packet, or stages one frame or two and may then send `RSP_OK`. -/
theorem upUnit_cases {i : Instr} (h : isUpUnit i = true) {s t : State} (e : exec i s = .next t) :
    (∃ q, t = emitUp q s) ∨
    (∃ g0 g1 g2 g3 imm, t = { stage1 g0 g1 g2 g3 s with upTx := withOk imm s }) ∨
    (∃ g0 g1 g2 g3 h0 h1 h2 h3 imm, t = { stage2 g0 g1 g2 g3 h0 h1 h2 h3 s with upTx := withOk imm s }) := by
  have fixed : ∀ p g, Host.Outcome.next (fixedCmd p g s) = (.next t : Result) →
      (∃ g0 g1 g2 g3 imm, t = { stage1 g0 g1 g2 g3 s with upTx := withOk imm s }) := by
    intro p g e; cases e; exact ⟨_, _, _, _, _, fixedCmd_eq p g s⟩
  have addr : ∀ l im a o d, Host.Outcome.next (addrCtrl l im a o d s) = (.next t : Result) →
      (∃ q, t = emitUp q s) ∨ (∃ g0 g1 g2 g3 imm, t = { stage1 g0 g1 g2 g3 s with upTx := withOk imm s }) := by
    intro l im a o d e; cases e
    rcases addrCtrl_cases l im a o d s with ⟨_, e⟩ | ⟨_, e⟩
    · exact .inl ⟨_, e⟩
    · exact .inr ⟨_, _, _, _, _, e⟩
  have cv : ∀ p a d, Host.Outcome.next (cvCmd p a d s) = (.next t : Result) →
      (∃ q, t = emitUp q s) ∨ (∃ g0 g1 g2 g3 imm, t = { stage1 g0 g1 g2 g3 s with upTx := withOk imm s }) := by
    intro p a d e; cases e
    rcases cvCmd_cases p a d s with ⟨_, e⟩ | ⟨_, e⟩
    · exact .inl ⟨_, e⟩
    · exact .inr ⟨_, _, _, _, _, e⟩
  have ops : ∀ l p a v d, Host.Outcome.next (opsCmd l p a v d s) = (.next t : Result) →
      (∃ q, t = emitUp q s) ∨
      (∃ g0 g1 g2 g3 h0 h1 h2 h3 imm, t = { stage2 g0 g1 g2 g3 h0 h1 h2 h3 s with upTx := withOk imm s }) := by
    intro l p a v d e; cases e
    rcases opsCmd_cases l p a v d s with ⟨_, e⟩ | ⟨_, _, e⟩ | ⟨_, _, e⟩
    · exact .inl ⟨_, e⟩
    · exact .inl ⟨_, e⟩
    · exact .inr ⟨_, _, _, _, _, _, _, _, _, e⟩
  cases i with
  | upNop | upNopCrlf | upUnsupported | upOutOfRange | upFwVer => cases e; exact .inl ⟨_, rfl⟩
  | upStatus | upMacro | upProgEnter | upProgExit => exact .inr (.inl (fixed _ _ e))
  | upLocoCtrl | upAccCtrl => exact (addr _ _ _ _ _ e).imp id .inl
  | upCvProgPaged | upCvProgDirect | upCvReadPaged | upCvReadDirect | upRegProg | upRegRead =>
    exact (cv _ _ _ e).imp id .inl
  | upOpsLoco | upOpsAcc => exact (ops _ _ _ _ _ e).imp id .inr
  | _ => cases h

/-! ### Reply units -/

/-- What the reply assembler hands over is ignored, or emits one packet upstream. -/
theorem raUnit_cases {p : List Byte} {s t : State} (h : runUnit (.ra p) s = .next t) :
    t = s ∨ ∃ q, t = emitUp q s := by
  rcases runUnit_next h with ⟨i, hd, he⟩ | ⟨hd, rfl⟩
  · cases p with
    | nil => simp [decode, decodeRa] at hd
    | cons b rest =>
      simp only [decode, decodeRa] at hd
      split_ifs at hd <;> split at hd <;> cases hd <;> cases he <;> first | exact .inr ⟨_, rfl⟩ | exact .inl rfl
  · exact .inl rfl

/-! ### Units of the poll/command machine -/

/-- Everything a non-poll unit of the poll/command machine can do in the state `m`: nothing, one event, the answer to
a cab-type query (only when addressed), or a fast-clock update. -/
def inboundEffect (m : CabState) (i : Instr) : Prop :=
  (∀ s, exec i s = .next s) ∨
  (∃ f : IbCfg → Event, ∀ s, exec i s = .next (emitEvt (f s.cfg.ib) s)) ∨
  (m = .execMyCmd ∧ ∀ s, exec i s = .next (emitBus [s.cabType] s)) ∨
  (∃ opc text, ∀ s, exec i s = .next (fcTime opc text s)) ∨
  (∃ r, ∀ s, exec i s = .next (fcRateCmd r s))

theorem decode_pc_cases {c : Cfg} {m : CabState} {p : List Byte} {i : Instr} (h : decode c (.pc m p) = .ok i) :
    (∃ b, p = [b] ∧ isPoll b = true ∧ i = .poll (pollAddr b)) ∨
    ((∃ b rest, p = b :: rest ∧ isPoll b = false) ∧ inboundEffect m i) := by
  cases p with
  | nil => simp [decode, decodePc] at h
  | cons b rest =>
    simp only [decode, decodePc] at h
    by_cases hp : isPoll b = true
    · rw [if_pos hp] at h
      unfold formatU1 at h
      split at h <;> cases h
      exact .inl ⟨_, rfl, hp, rfl⟩
    · rw [if_neg hp] at h
      refine .inr ⟨⟨_, _, rfl, by simpa using hp⟩, ?_⟩
      cases m
      · simp only [formatU1] at h; split at h <;> cases h; exact .inl fun _ => rfl
      · simp only [formatU1] at h; split at h <;> cases h; exact .inl fun _ => rfl
      · simp only [decodeIb] at h
        split at h
        · simp only [formatU1] at h; split at h <;> cases h; exact .inl fun _ => rfl
        · cases hk : addrClassOf c.ib b with
          | noClass => rw [hk] at h; cases h
          | lcdText =>
            rw [hk] at h
            simp only [decodeAddrClass, formatList] at h
            split at h <;> cases h
            refine .inr (.inl ⟨fun _ => .lcdUpdate (lcdColRow b).1 (lcdColRow b).2 rest 8, fun s => ?_⟩)
            unfold lcdInstr; split_ifs <;> rfl
          | cursorMove =>
            rw [hk] at h
            simp only [decodeAddrClass, formatU2] at h
            split at h <;> cases h
            exact .inr (.inl ⟨fun c => .lcdMoveCursor (cursorDecode c _).1 (cursorDecode c _).2, fun s => rfl⟩)
          | tty a =>
            rw [hk] at h
            cases a <;> simp only [decodeAddrClass, formatU2] at h <;> split at h <;> cases h <;>
              exact .inr (.inl ⟨fun _ => .lcdPrintChar _ _, fun s => rfl⟩)
          | cursorMode a =>
            rw [hk] at h
            cases a <;> simp only [decodeAddrClass, formatU1] at h <;> split at h <;> cases h <;>
              exact .inr (.inl ⟨fun _ => .lcdCursorMode _, fun s => rfl⟩)
          | cabTypeQuery =>
            rw [hk] at h
            simp only [decodeAddrClass, formatU1] at h
            split at h <;> cases h
            exact .inr (.inr (.inl ⟨rfl, fun s => rfl⟩))
      · simp only [decodeIb] at h
        split at h
        · simp only [formatU1] at h; split at h <;> cases h; exact .inl fun _ => rfl
        · cases hk : bcastClassOf c.ib b with
          | noClass => rw [hk] at h; cases h
          | fcTime =>
            rw [hk] at h
            simp only [decodeBcastClass, formatList] at h
            split at h <;> cases h
            exact .inr (.inr (.inr (.inl ⟨_, _, fun s => rfl⟩)))
          | fcRate =>
            rw [hk] at h
            simp only [decodeBcastClass, formatU2] at h
            split at h <;> cases h
            exact .inr (.inr (.inr (.inr ⟨_, fun s => rfl⟩)))

/-! ### Frames of the port machines -/

/-- The state stored by the upstream assembler, with only the latched length unresolved. -/
theorem uaStore_eq (b : Byte) (s : State) :
    uaStore b (uaLatch b s) =
      { s with
        uaLen := (uaLatch b s).uaLen, uaBuf := memWrite s.uaBuf s.uaCnt.toNat b, uaCnt := s.uaCnt + 1 } := by
  unfold uaStore uaLatch; split <;> rfl

/-- The state stored by the poll/command machine, with only the latched length unresolved. -/
theorem ibStore_eq (b : Byte) (s : State) :
    ibStore b (ibLatch b s) =
      { s with
        ibLen := (ibLatch b s).ibLen
        ibBuf := memWrite s.ibBuf s.ibCnt.toNat (storedByte s.cfg.ib s.ibCnt.toNat b)
        ibCnt := s.ibCnt + 1 } := by
  unfold ibStore ibLatch; split <;> rfl

/-- `t` differs from `s` in the upstream side's state only. -/
def upFrame (s t : State) : Prop :=
  t = { s with uaCnt := t.uaCnt, uaLen := t.uaLen, uaBuf := t.uaBuf, tx0 := t.tx0, tx1 := t.tx1, upTx := t.upTx }

/-- `t` differs from `s` in what a host access writes only. -/
def hostFrame (s t : State) : Prop :=
  t = { s with
    cabType := t.cabType, cabAddr := t.cabAddr, speed := t.speed, key := t.key, aiu := t.aiu, hostOut := t.hostOut }

theorem upFrame_trans {s t u : State} (h : upFrame s t) (h' : upFrame t u) : upFrame s u := by
  unfold upFrame at *; rw [h', h]

theorem replyFrame_trans {s t u : State} (h : replyFrame s t) (h' : replyFrame t u) : replyFrame s u := by
  unfold replyFrame at *; rw [h', h]

theorem pcFrame_trans {s t u : State} (h : pcFrame s t) (h' : pcFrame t u) : pcFrame s u := by
  unfold pcFrame at *; rw [h', h]

theorem upFeed_frame {b : Byte} {s t : State} (h : upFeed b s = .next t) : upFrame s t := by
  have hs : upFrame s (uaStore b (uaLatch b s)) := by unfold upFrame; rw [uaStore_eq]
  rcases runFetch_next h with e | ⟨w, u, e, h⟩ | ⟨w, u, v, e, h, rfl⟩ <;>
    rcases upFetch_cases b s with ⟨hc, e'⟩ | ⟨hc, hl, e'⟩ | ⟨hc, hl, e'⟩ <;> rw [e'] at e <;> cases e
  · exact hs
  · refine upFrame_trans hs (upFrame_trans (t := v) ?_ rfl)
    rcases runUnit_next h with ⟨i, hd, he⟩ | ⟨hd, rfl⟩
    · rcases upUnit_cases (decode_up_unit hd) he with ⟨q, rfl⟩ | ⟨g0, g1, g2, g3, im, rfl⟩ |
        ⟨g0, g1, g2, g3, h0, h1, h2, h3, im, rfl⟩ <;> rfl
    · rfl

theorem raFeed_frame {b : Byte} {s t : State} (h : raFeed b s = .next t) : replyFrame s t := by
  have key : ∀ u, replyFrame s u → runFetch raClear (raTake b u) = .next t → replyFrame s t := by
    intro u hs h
    rcases runFetch_next h with e | ⟨w, x, e, h⟩ | ⟨w, x, v, e, h, rfl⟩ <;>
      rcases raTake_cases b u with ⟨hc, e'⟩ | ⟨hc, hl, e'⟩ | ⟨hc, hl, e'⟩ <;> rw [e'] at e <;> cases e
    · exact replyFrame_trans hs rfl
    · exact replyFrame_trans hs (by rcases raUnit_cases h with rfl | ⟨q, rfl⟩ <;> rfl)
  unfold raFeed at h
  rcases raFetch_cases b s with ⟨ha, e⟩ | ⟨ha, n, hn, e⟩ | ⟨ha, hn, e⟩ <;> rw [e] at h
  · exact key s rfl h
  · exact key (raStart n s) rfl h
  · rcases raUnit_cases h with rfl | ⟨q, rfl⟩ <;> rfl

/-- The time broadcast writes the time, the mode and the events only. -/
theorem fcTime_frame (opc : Byte) (text : List Byte) (s : State) :
    fcTime opc text s =
      { s with
        fcHours := (fcTime opc text s).fcHours, fcMinutes := (fcTime opc text s).fcMinutes,
        fcMode := (fcTime opc text s).fcMode, evt := (fcTime opc text s).evt } := by
  rcases fcTime_cases opc text s with ⟨_, e⟩ | ⟨_, e⟩ <;> rw [e] <;> rfl

/-- The rate broadcast writes the rate and the events only. -/
theorem fcRateCmd_frame (r : Byte) (s : State) :
    fcRateCmd r s = { s with fcRate := (fcRateCmd r s).fcRate, evt := (fcRateCmd r s).evt } := by
  rcases fcRateCmd_cases r s with ⟨_, e⟩ | ⟨_, _, e⟩ | ⟨_, _, e⟩ <;> rw [e] <;> rfl

theorem pollTurn_frame (a : BitVec 6) (s : State) : pcFrame s (pollTurn a s) := by
  unfold pcFrame
  rcases pollTurn_cases a s with ⟨_, e⟩ | ⟨_, _, e⟩ | ⟨_, _, e⟩ <;> rw [e]
  rw [pollReact_frame { s with ibCnt := 0, cabState := .execMyCmd }]

theorem pcUnit_frame {m : CabState} {p : List Byte} {s t : State} (h : runUnit (.pc m p) s = .next t) :
    pcFrame s t := by
  rcases runUnit_next h with ⟨i, hd, e⟩ | ⟨hd, rfl⟩
  · rcases decode_pc_cases hd with ⟨b, _, _, rfl⟩ | ⟨_, h | ⟨f, h⟩ | ⟨_, h⟩ | ⟨o, tx, h⟩ | ⟨r, h⟩⟩
    · cases e; exact pollTurn_frame _ s
    · rw [h] at e; cases e; rfl
    · rw [h] at e; cases e; rfl
    · rw [h] at e; cases e; rfl
    · rw [h] at e; cases e; unfold pcFrame; rw [fcTime_frame]
    · rw [h] at e; cases e; unfold pcFrame; rw [fcRateCmd_frame]
  · rfl

theorem pcFeed_frame {b : Byte} {s t : State} (h : pcFeed b s = .next t) : pcFrame s t := by
  have hs : pcFrame s (ibStore b (ibLatch b s)) := by unfold pcFrame; rw [ibStore_eq]
  rcases runFetch_next h with e | ⟨w, u, e, h⟩ | ⟨w, u, v, e, h, rfl⟩ <;>
    rcases pcFetch_cases b s with ⟨hp, e'⟩ | ⟨hp, hc, e'⟩ | ⟨hp, hc, hl, e'⟩ | ⟨hp, hc, hl, e'⟩ <;>
    rw [e'] at e <;> cases e
  · exact hs
  · exact pcUnit_frame h
  · exact pcFrame_trans hs (pcFrame_trans (pcUnit_frame h) rfl)

theorem hostAccess_frame (s : State) (reg : Byte) (a : HostAccess) : hostFrame s (hostAccess reg a s) := by
  unfold hostFrame hostAccess
  cases a
  · rfl
  · show regWrite _ _ _ = _
    dsimp only
    rw [regWrite_frame]

/-- The number of every register that is not mapped decodes to the generic access. -/
theorem hostRegInstr_none {reg : Byte} (h : 20 ≤ reg.toNat) (a : HostAccess) : hostRegInstr a reg = none := by
  unfold hostRegInstr; split <;> first | omega | rfl

/-- A host access does to the state what `hostAccess` does, whichever row it decodes to. -/
theorem hostUnit_next {s t : State} {reg : Byte} {a : HostAccess} (h : runUnit (encodeHost reg a) s = .next t) :
    t = hostAccess reg a s := by
  rcases runUnit_next h with ⟨i, hd, he⟩ | ⟨hd, rfl⟩
  · by_cases hr : reg.toNat < 20
    · have : ∃ k : Fin 20, reg = BitVec.ofNat 8 k.val := ⟨⟨reg.toNat, hr⟩, by simp⟩
      obtain ⟨k, rfl⟩ := this
      fin_cases k <;> cases a <;> (cases hd; cases he; rfl)
    · have hn := hostRegInstr_none (Nat.le_of_not_lt hr)
      cases a <;> simp only [encodeHost, decode, hn, Option.getD_none] at hd <;> cases hd <;> cases he <;> rfl
  · cases a <;> cases hd

/-! ### Steps -/

/-- What a step that answers a next state did. -/
inductive StepCase (s t : State) : Prop
  | idle : s.inputs = [] → t = s → StepCase s t
  | up (b : Byte) (rest : List Input) : s.inputs = .upByte b :: rest →
      upFeed b { s with inputs := rest } = .next t → StepCase s t
  | bus (b : Byte) (p r : Bool) (rest : List Input) (u : State) : s.inputs = .busByte b p r :: rest →
      (if p then pcFeed b { s with inputs := rest } else .next { s with inputs := rest }) = .next u →
      (if r then raFeed b u else .next u) = .next t → StepCase s t
  | read (reg : Byte) (rest : List Input) : s.inputs = .cfgRead reg :: rest →
      t = hostAccess reg .read { s with inputs := rest } → StepCase s t
  | write (reg : Byte) (v : Word16) (rest : List Input) : s.inputs = .cfgWrite reg v :: rest →
      t = hostAccess reg (.write v) { s with inputs := rest } → StepCase s t
  | reset (rest : List Input) : s.inputs = .reset :: rest → t = resetState { s with inputs := rest } → StepCase s t

theorem step_cases {s t : State} (h : step s = .next t) : s.cfg.wellFormed = true ∧ StepCase s t := by
  obtain ⟨hw, ⟨h0, h1⟩ | ⟨x, r, h1, h⟩⟩ := step_next h
  · exact ⟨hw, .idle h0 h1⟩
  · refine ⟨hw, ?_⟩
    cases x with
    | upByte b => exact .up _ _ h1 h
    | busByte b p q => obtain ⟨u, a, c⟩ := busFeed_next h; exact .bus _ _ _ _ _ h1 a c
    | cfgRead reg => exact .read _ _ h1 (hostUnit_next (a := .read) h)
    | cfgWrite reg v => exact .write _ _ _ h1 (hostUnit_next (a := .write v) h)
    | reset => cases h; exact .reset _ h1 rfl

/-! ### Runs of steps -/

theorem runSteps_succ (k : Nat) {s u : State} (h : step s = .next u) : runSteps (k + 1) s = runSteps k u := by
  show andThen (step s) (runSteps k) = _
  rw [h]; rfl

theorem runSteps_add (a b : Nat) {s u : State} (h : runSteps a s = .next u) : runSteps (a + b) s = runSteps b u := by
  induction a generalizing s with
  | zero => cases h; simp
  | succ a ih =>
    obtain ⟨v, hv, h⟩ := andThen_next h
    rw [show a + 1 + b = (a + b) + 1 by omega, runSteps_succ _ hv]; exact ih h

end Sys2Proof.Machine
end

