-- ==== Sys2Proof/Laws/Bus.lean ====
section
/-! SUPPORT. The two machines of a bus byte read only their own registers (rule R150): what each answers at a state says
what it answers at every state that agrees on them. And what a run of bytes at one machine does. -/

namespace Sys2Proof.Machine

/-- `s` with the reply assembler's registers and `up_tx` of `t`. -/
def replyOf (t s : State) : State :=
  { s with raActive := t.raActive, raSize := t.raSize, raCnt := t.raCnt, raBuf := t.raBuf, upTx := t.upTx }

/-- Do two states agree on what the reply assembler reads? -/
def replyAgree (s x : State) : Prop :=
  x.cfg = s.cfg ∧ x.upTx = s.upTx ∧ x.raActive = s.raActive ∧ x.raSize = s.raSize ∧ x.raCnt = s.raCnt ∧
    x.raBuf = s.raBuf

/-- `s` with other transactions presented and with the reply assembler's registers and `up_tx` of `t`. -/
def replyInputsOf (xs : List Input) (t s : State) : State := { replyOf t s with inputs := xs }

/-! ### The reply assembler -/

theorem raUnit_reads {p : List Byte} {s t : State} (h : runUnit (.ra p) s = .next t) (x : State)
    (hx : x.cfg = s.cfg) (hu : x.upTx = s.upTx) : runUnit (.ra p) x = .next { x with upTx := t.upTx } := by
  have hne : ∀ e, decode s.cfg (.ra p) = .error e → e ≠ .noClass := by
    intro e hd
    cases p with
    | nil => cases hd; simp
    | cons b rest => simp only [decode, decodeRa] at hd; split_ifs at hd <;> split at hd <;> cases hd <;> simp
  rcases runUnit_next h with ⟨i, hd, he⟩ | ⟨hd, _⟩
  · rw [runUnit_of_ok (show decode x.cfg (.ra p) = .ok i from hd)]
    cases p with
    | nil => simp [decode, decodeRa] at hd
    | cons b rest =>
      simp only [decode, decodeRa] at hd
      split_ifs at hd <;> split at hd <;> cases hd <;> cases he <;>
        simp [exec, execReplyD8, execReplyD9, execReplyDA, execReplyNone, replyPacket, emitUp, hx, hu]
      rw [← hu, ← hx]
  · exact absurd rfl (hne _ hd)

theorem raTake_reads {b : Byte} {s t : State} (h : runFetch raClear (raTake b s) = .next t) (x : State)
    (ha : replyAgree s x) : runFetch raClear (raTake b x) = .next (replyOf t x) := by
  obtain ⟨hx, hu, h1, h2, h3, h4⟩ := ha
  have st : raStore b x = replyOf (raStore b s) x := by unfold raStore replyOf; rw [h1, h2, h3, h4, hu]
  rcases runFetch_next h with e | ⟨w, u, e, h⟩ | ⟨w, u, v, e, h, rfl⟩ <;>
    rcases raTake_cases b s with ⟨hc, e'⟩ | ⟨hc, hl, e'⟩ | ⟨hc, hl, e'⟩ <;> rw [e'] at e <;> cases e
  · rcases raTake_cases b x with ⟨hc', e'⟩ | ⟨hc', hl', e'⟩ | ⟨hc', hl', e'⟩
    · rw [h3] at hc'; omega
    · rw [e', st]; rfl
    · rw [h3, h2] at hl'; exact absurd hl' hl
  · rcases raTake_cases b x with ⟨hc', e'⟩ | ⟨hc', hl', e'⟩ | ⟨hc', hl', e'⟩
    · rw [h3] at hc'; omega
    · rw [h3, h2] at hl'; exact absurd hl hl'
    · rw [e']
      have hf : raFrame (raStore b x) = raFrame (raStore b s) := by rw [st]; rfl
      unfold runFetch; dsimp only
      rw [hf, raUnit_reads h (raStore b x) hx hu]
      have hv : v = { raStore b s with upTx := v.upTx } := by rcases raUnit_cases h with rfl | ⟨q, rfl⟩ <;> rfl
      rw [st, hv]; rfl

/-- What the reply assembler answers at `s` it answers at every state that agrees on what it reads. -/
theorem raFeed_reads {b : Byte} {s t : State} (h : raFeed b s = .next t) (x : State) (ha : replyAgree s x) :
    raFeed b x = .next (replyOf t x) := by
  obtain ⟨hx, hu, h1, h2, h3, h4⟩ := id ha
  unfold raFeed at *
  rcases raFetch_cases b s with ⟨hs, e⟩ | ⟨hs, n, hn, e⟩ | ⟨hs, hn, e⟩ <;> rw [e] at h <;>
    rcases raFetch_cases b x with ⟨hs', e⟩ | ⟨hs', n', hn', e⟩ | ⟨hs', hn', e⟩ <;> rw [h1] at hs' <;>
    (try (rw [hs] at hs'; cases hs')) <;> rw [e]
  · exact raTake_reads h x ha
  · rw [hn] at hn'; cases hn'
    exact raTake_reads h (raStart n x) ⟨hx, hu, rfl, rfl, rfl, h4⟩
  · rw [hn] at hn'; cases hn'
  · rw [hn] at hn'; cases hn'
  · show runUnit _ _ = _
    rw [raUnit_reads h x hx hu]
    have hv : t = { s with upTx := t.upTx } := by rcases raUnit_cases h with rfl | ⟨q, rfl⟩ <;> rfl
    rw [hv]; unfold replyOf; simp only [← h1, ← h2, ← h3, ← h4]

/-! ### The poll/command machine -/

theorem pcUnit_reads {m : CabState} {p : List Byte} {s t : State} (xs : List Input) (r : State)
    (h : runUnit (.pc m p) s = .next t) :
    runUnit (.pc m p) (replyInputsOf xs r s) = .next (replyInputsOf xs r t) := by
  rcases runUnit_next h with ⟨i, hd, e⟩ | ⟨hd, rfl⟩
  · rw [runUnit_of_ok (show decode (replyInputsOf xs r s).cfg _ = .ok i from hd)]
    rcases decode_pc_cases hd with ⟨b, _, _, rfl⟩ | ⟨_, h | ⟨f, h⟩ | ⟨_, h⟩ | ⟨o, tx, h⟩ | ⟨q, h⟩⟩
    · cases e
      show Host.Outcome.next (pollTurn _ _) = _
      unfold pollTurn pollReact
      have e1 : (replyInputsOf xs r s).cabAddr = s.cabAddr := rfl
      rw [e1]
      split_ifs <;> try rfl
      all_goals first | (congr 1; rw [flush_eq, flush_eq]; rfl) | contradiction
    · rw [h] at e ⊢; cases e; rfl
    · rw [h] at e ⊢; cases e; rfl
    · rw [h] at e ⊢; cases e; rfl
    · rw [h] at e ⊢; cases e
      unfold fcTime
      have hf : fastClockDue (fcTimeCache o tx (replyInputsOf xs r s)) = fastClockDue (fcTimeCache o tx s) := rfl
      dsimp only; rw [hf]; split <;> rfl
    · rw [h] at e ⊢; cases e
      unfold fcRateCmd
      have hr : (replyInputsOf xs r s).fcRate = s.fcRate := rfl
      have hf : fastClockDue { replyInputsOf xs r s with fcRate := fcRateOf q } =
          fastClockDue { s with fcRate := fcRateOf q } := rfl
      rw [hr]; dsimp only; rw [hf]; split <;> [skip; rfl]; split <;> rfl
  · rw [runUnit_of_noClass (show decode (replyInputsOf xs r t).cfg _ = _ from hd)]

/-- What the poll/command machine answers does not depend on the reply assembler, `up_tx` or the transactions still
presented, and it leaves these as they are. -/
theorem pcFeed_reads {b : Byte} {s t : State} (xs : List Input) (r : State) (h : pcFeed b s = .next t) :
    pcFeed b (replyInputsOf xs r s) = .next (replyInputsOf xs r t) := by
  have st : ibStore b (ibLatch b (replyInputsOf xs r s)) = replyInputsOf xs r (ibStore b (ibLatch b s)) := by
    have hl : ibLatch b (replyInputsOf xs r s) = replyInputsOf xs r (ibLatch b s) := by
      unfold ibLatch
      have hc : (replyInputsOf xs r s).ibCnt = s.ibCnt := rfl
      rw [hc]; split <;> rfl
    rw [hl]; rfl
  have hll : (ibLatch b (replyInputsOf xs r s)).ibLen = (ibLatch b s).ibLen := by
    have h := congrArg State.ibLen st; exact h
  unfold pcFeed at *
  rcases runFetch_next h with e | ⟨w, u, e, h⟩ | ⟨w, u, v, e, h, rfl⟩ <;>
    rcases pcFetch_cases b s with ⟨hp, e'⟩ | ⟨hp, hc, e'⟩ | ⟨hp, hc, hl, e'⟩ | ⟨hp, hc, hl, e'⟩ <;>
    rw [e'] at e <;> cases e <;>
    rcases pcFetch_cases b (replyInputsOf xs r s) with
      ⟨hp', e''⟩ | ⟨hp', hc', e''⟩ | ⟨hp', hc', hl', e''⟩ | ⟨hp', hc', hl', e''⟩ <;>
    (have hq : pcSingle b s = _ := hp'; rw [hp] at hq; cases hq) <;>
    (first | (have hq : ibBufSize ≤ s.ibCnt.toNat := hc'; omega) | skip) <;>
    (first | (rw [hll] at hl'; exact absurd hl' hl) | (rw [hll] at hl'; exact absurd hl hl') | skip)
  · rw [e'', st]; rfl
  · rw [e'']; exact pcUnit_reads xs r h
  · rw [e'', st]
    have hf : ibFrame (replyInputsOf xs r (ibStore b (ibLatch b s))) = ibFrame (ibStore b (ibLatch b s)) := rfl
    have hcs : (replyInputsOf xs r s).cabState = s.cabState := rfl
    unfold runFetch; dsimp only
    rw [hf, hcs, pcUnit_reads xs r h]; rfl

/-! ### Runs of bytes -/

theorem feedAll_append (f : Byte → State → Result) (p q : List Byte) {s u : State} (h : feedAll f p s = .next u) :
    feedAll f (p ++ q) s = feedAll f q u := by
  induction p generalizing s with
  | nil => cases h; rfl
  | cons b p ih =>
    obtain ⟨v, hv, h⟩ := andThen_next h
    show andThen (f b s) (feedAll f (p ++ q)) = _
    rw [hv]; exact ih h

theorem feedAll_replyFrame {p : List Byte} {s t : State} (h : feedAll raFeed p s = .next t) : replyFrame s t := by
  induction p generalizing s with
  | nil => cases h; rfl
  | cons b p ih => obtain ⟨v, hv, h⟩ := andThen_next h; exact replyFrame_trans (raFeed_frame hv) (ih h)

theorem feedAll_pcFrame {p : List Byte} {s t : State} (h : feedAll pcFeed p s = .next t) : pcFrame s t := by
  induction p generalizing s with
  | nil => cases h; rfl
  | cons b p ih => obtain ⟨v, hv, h⟩ := andThen_next h; exact pcFrame_trans (pcFeed_frame hv) (ih h)

end Sys2Proof.Machine
end

