-- ==== Sys2Proof/Laws/PerInstr.lean ====
section
/-! SUPPORT. The per-instruction family `EncodedSize`: a well-formed unit's wire unit has at least one byte and fits
the buffer of its machine (rule R40). -/

namespace Sys2Proof.Laws

open Sys2Proof.Machine

/-- The wire unit has at least one byte and at most as many as its machine's buffer. -/
def fitsBuffer : Wire → Prop
  | .up p => 1 ≤ p.length ∧ p.length ≤ uaBufSize
  | .pc _ q => 1 ≤ q.length ∧ q.length ≤ ibBufSize
  | .ra r => 1 ≤ r.length ∧ r.length ≤ raBufSize
  | .hostRead _ | .hostWrite _ _ | .rst => True

/-- Under every well-formed configuration, the wire unit of the well-formed instruction `i` fits its buffer. -/
def EncodedSize.Statement (i : Instr) : Prop :=
  ∀ c : Cfg, c.wellFormed = true → i.wf c = true → fitsBuffer (encode i)

/-- An upstream length in the table is at most 11 (rule R1 (b)). -/
theorem upLen_le {c : Cfg} (hw : c.wellFormed = true) (b : Byte) : (upLen c.up b).toNat ≤ 11 := by
  unfold upLen
  split
  · cases h : upEntry c.up b with
    | none => show (1 : BitVec 4).toNat ≤ 11; decide
    | some e =>
      have ho := upEntry_ok hw h
      simp only [UpEntry.ok, Bool.and_eq_true, decide_eq_true_eq] at ho
      exact ho.1.1.2
  · decide

/-- A host access uses no buffer. -/
theorem fits_host (reg : Byte) (a : HostAccess) : fitsBuffer (encodeHost reg a) := by cases a <;> trivial

theorem EncodedSize.poll (a : BitVec 6) : EncodedSize.Statement (.poll a) := fun _ _ _ =>
  (by decide : 1 ≤ 1 ∧ 1 ≤ 9)

theorem EncodedSize.replyD8 (r1 r2 : Byte) : EncodedSize.Statement (.replyD8 r1 r2) := fun _ _ _ =>
  (by decide : 1 ≤ 3 ∧ 3 ≤ 7)

theorem EncodedSize.replyD9 (r1 r2 r3 : Byte) : EncodedSize.Statement (.replyD9 r1 r2 r3) := fun _ _ _ =>
  (by decide : 1 ≤ 4 ∧ 4 ≤ 7)

theorem EncodedSize.replyDA (r1 r2 r3 r4 r5 r6 : Byte) : EncodedSize.Statement (.replyDA r1 r2 r3 r4 r5 r6) := fun _ _ _ =>
  (by decide : 1 ≤ 7 ∧ 7 ≤ 7)

theorem EncodedSize.replyNone (b : Byte) : EncodedSize.Statement (.replyNone b) := fun _ _ _ =>
  (by decide : 1 ≤ 1 ∧ 1 ≤ 7)

theorem EncodedSize.upNop (opc : Byte) : EncodedSize.Statement (.upNop opc) := fun _ _ _ =>
  (by decide : 1 ≤ 1 ∧ 1 ≤ 11)

theorem EncodedSize.upNopCrlf (opc : Byte) : EncodedSize.Statement (.upNopCrlf opc) := fun _ _ _ =>
  (by decide : 1 ≤ 1 ∧ 1 ≤ 11)

theorem EncodedSize.upStatus (opc data : Byte) : EncodedSize.Statement (.upStatus opc data) := fun _ _ _ =>
  (by decide : 1 ≤ 2 ∧ 2 ≤ 11)

theorem EncodedSize.upMacro (opc data : Byte) : EncodedSize.Statement (.upMacro opc data) := fun _ _ _ =>
  (by decide : 1 ≤ 2 ∧ 2 ≤ 11)

theorem EncodedSize.upProgEnter (opc : Byte) : EncodedSize.Statement (.upProgEnter opc) := fun _ _ _ =>
  (by decide : 1 ≤ 1 ∧ 1 ≤ 11)

theorem EncodedSize.upProgExit (opc : Byte) : EncodedSize.Statement (.upProgExit opc) := fun _ _ _ =>
  (by decide : 1 ≤ 1 ∧ 1 ≤ 11)

theorem EncodedSize.upCvProgPaged (opc : Byte) (addr : Word16) (data : Byte) : EncodedSize.Statement (.upCvProgPaged opc addr data) := fun _ _ _ =>
  (by decide : 1 ≤ 4 ∧ 4 ≤ 11)

theorem EncodedSize.upCvReadPaged (opc : Byte) (addr : Word16) : EncodedSize.Statement (.upCvReadPaged opc addr) := fun _ _ _ =>
  (by decide : 1 ≤ 3 ∧ 3 ≤ 11)

theorem EncodedSize.upLocoCtrl (opc : Byte) (addr : Word16) (op data : Byte) : EncodedSize.Statement (.upLocoCtrl opc addr op data) := fun _ _ _ =>
  (by decide : 1 ≤ 5 ∧ 5 ≤ 11)

theorem EncodedSize.upRegProg (opc reg data : Byte) : EncodedSize.Statement (.upRegProg opc reg data) := fun _ _ _ =>
  (by decide : 1 ≤ 3 ∧ 3 ≤ 11)

theorem EncodedSize.upRegRead (opc reg : Byte) : EncodedSize.Statement (.upRegRead opc reg) := fun _ _ _ =>
  (by decide : 1 ≤ 2 ∧ 2 ≤ 11)

theorem EncodedSize.upCvProgDirect (opc : Byte) (addr : Word16) (data : Byte) : EncodedSize.Statement (.upCvProgDirect opc addr data) := fun _ _ _ =>
  (by decide : 1 ≤ 4 ∧ 4 ≤ 11)

theorem EncodedSize.upCvReadDirect (opc : Byte) (addr : Word16) : EncodedSize.Statement (.upCvReadDirect opc addr) := fun _ _ _ =>
  (by decide : 1 ≤ 3 ∧ 3 ≤ 11)

theorem EncodedSize.upFwVer (opc : Byte) : EncodedSize.Statement (.upFwVer opc) := fun _ _ _ =>
  (by decide : 1 ≤ 1 ∧ 1 ≤ 11)

theorem EncodedSize.upAccCtrl (opc : Byte) (addr : Word16) (op data : Byte) : EncodedSize.Statement (.upAccCtrl opc addr op data) := fun _ _ _ =>
  (by decide : 1 ≤ 5 ∧ 5 ≤ 11)

theorem EncodedSize.upOpsLoco (opc : Byte) (addr cv : Word16) (data : Byte) : EncodedSize.Statement (.upOpsLoco opc addr cv data) := fun _ _ _ =>
  (by decide : 1 ≤ 6 ∧ 6 ≤ 11)

theorem EncodedSize.upOpsAcc (opc : Byte) (addr cv : Word16) (data : Byte) : EncodedSize.Statement (.upOpsAcc opc addr cv data) := fun _ _ _ =>
  (by decide : 1 ≤ 6 ∧ 6 ≤ 11)

theorem EncodedSize.upUnsupported (opc : Byte) (rest : List Byte) : EncodedSize.Statement (.upUnsupported opc rest) := fun c hw h => by
  simp only [Instr.wf, Bool.and_eq_true, beq_iff_eq] at h
  have := upLen_le hw opc
  rw [h.2] at this
  simp only [fitsBuffer, encode, List.length_cons, uaBufSize]
  omega

theorem EncodedSize.upOutOfRange (b : Byte) : EncodedSize.Statement (.upOutOfRange b) := fun _ _ _ =>
  (by decide : 1 ≤ 1 ∧ 1 ≤ 11)

theorem EncodedSize.ibLcdText0 (opc : Byte) (text : List Byte) : EncodedSize.Statement (.ibLcdText0 opc text) := fun _ _ h => by
  simp only [Instr.wf, lcdUnit, Bool.and_eq_true, beq_iff_eq] at h
  simp [fitsBuffer, encode, ibBufSize, h.1.2]

theorem EncodedSize.ibLcdText1 (opc : Byte) (text : List Byte) : EncodedSize.Statement (.ibLcdText1 opc text) := fun _ _ h => by
  simp only [Instr.wf, lcdUnit, Bool.and_eq_true, beq_iff_eq] at h
  simp [fitsBuffer, encode, ibBufSize, h.1.2]

theorem EncodedSize.ibLcdText2 (opc : Byte) (text : List Byte) : EncodedSize.Statement (.ibLcdText2 opc text) := fun _ _ h => by
  simp only [Instr.wf, lcdUnit, Bool.and_eq_true, beq_iff_eq] at h
  simp [fitsBuffer, encode, ibBufSize, h.1.2]

theorem EncodedSize.ibLcdText3 (opc : Byte) (text : List Byte) : EncodedSize.Statement (.ibLcdText3 opc text) := fun _ _ h => by
  simp only [Instr.wf, lcdUnit, Bool.and_eq_true, beq_iff_eq] at h
  simp [fitsBuffer, encode, ibBufSize, h.1.2]

theorem EncodedSize.ibCursorMove (opc p : Byte) : EncodedSize.Statement (.ibCursorMove opc p) := fun _ _ _ =>
  (by decide : 1 ≤ 2 ∧ 2 ≤ 9)

theorem EncodedSize.ibTtyAdv (opc ch : Byte) : EncodedSize.Statement (.ibTtyAdv opc ch) := fun _ _ _ =>
  (by decide : 1 ≤ 2 ∧ 2 ≤ 9)

theorem EncodedSize.ibTtyNoadv (opc ch : Byte) : EncodedSize.Statement (.ibTtyNoadv opc ch) := fun _ _ _ =>
  (by decide : 1 ≤ 2 ∧ 2 ≤ 9)

theorem EncodedSize.ibHome (opc : Byte) : EncodedSize.Statement (.ibHome opc) := fun _ _ _ =>
  (by decide : 1 ≤ 1 ∧ 1 ≤ 9)

theorem EncodedSize.ibClear (opc : Byte) : EncodedSize.Statement (.ibClear opc) := fun _ _ _ =>
  (by decide : 1 ≤ 1 ∧ 1 ≤ 9)

theorem EncodedSize.ibCursorOff (opc : Byte) : EncodedSize.Statement (.ibCursorOff opc) := fun _ _ _ =>
  (by decide : 1 ≤ 1 ∧ 1 ≤ 9)

theorem EncodedSize.ibCursorOn (opc : Byte) : EncodedSize.Statement (.ibCursorOn opc) := fun _ _ _ =>
  (by decide : 1 ≤ 1 ∧ 1 ≤ 9)

theorem EncodedSize.ibDispRight (opc : Byte) : EncodedSize.Statement (.ibDispRight opc) := fun _ _ _ =>
  (by decide : 1 ≤ 1 ∧ 1 ≤ 9)

theorem EncodedSize.ibCabTypeQuery (opc : Byte) : EncodedSize.Statement (.ibCabTypeQuery opc) := fun _ _ _ =>
  (by decide : 1 ≤ 1 ∧ 1 ≤ 9)

theorem EncodedSize.ibFcTime (opc : Byte) (text : List Byte) : EncodedSize.Statement (.ibFcTime opc text) := fun _ _ h => by
  simp only [Instr.wf, Bool.and_eq_true, beq_iff_eq] at h
  simp [fitsBuffer, encode, ibBufSize, h.2]

theorem EncodedSize.ibFcRate (opc r : Byte) : EncodedSize.Statement (.ibFcRate opc r) := fun _ _ _ =>
  (by decide : 1 ≤ 2 ∧ 2 ≤ 9)

theorem EncodedSize.ibUnknown (m : IbMode) (b : Byte) : EncodedSize.Statement (.ibUnknown m b) := fun _ _ _ =>
  (by decide : 1 ≤ 1 ∧ 1 ≤ 9)

theorem EncodedSize.ibIgnored (b : Byte) : EncodedSize.Statement (.ibIgnored b) := fun _ _ _ =>
  (by decide : 1 ≤ 1 ∧ 1 ≤ 9)

theorem EncodedSize.cfgCabType (a : HostAccess) : EncodedSize.Statement (.cfgCabType a) := fun _ _ _ => fits_host 0 a

theorem EncodedSize.cfgCabAddr (a : HostAccess) : EncodedSize.Statement (.cfgCabAddr a) := fun _ _ _ => fits_host 1 a

theorem EncodedSize.cfgSpeed (a : HostAccess) : EncodedSize.Statement (.cfgSpeed a) := fun _ _ _ => fits_host 2 a

theorem EncodedSize.cfgKey (a : HostAccess) : EncodedSize.Statement (.cfgKey a) := fun _ _ _ => fits_host 3 a

theorem EncodedSize.cfgAiu (a : HostAccess) : EncodedSize.Statement (.cfgAiu a) := fun _ _ _ => fits_host 4 a

theorem EncodedSize.cfgAiuBit0 (a : HostAccess) : EncodedSize.Statement (.cfgAiuBit0 a) := fun _ _ _ => fits_host 5 a

theorem EncodedSize.cfgAiuBit1 (a : HostAccess) : EncodedSize.Statement (.cfgAiuBit1 a) := fun _ _ _ => fits_host 6 a

theorem EncodedSize.cfgAiuBit2 (a : HostAccess) : EncodedSize.Statement (.cfgAiuBit2 a) := fun _ _ _ => fits_host 7 a

theorem EncodedSize.cfgAiuBit3 (a : HostAccess) : EncodedSize.Statement (.cfgAiuBit3 a) := fun _ _ _ => fits_host 8 a

theorem EncodedSize.cfgAiuBit4 (a : HostAccess) : EncodedSize.Statement (.cfgAiuBit4 a) := fun _ _ _ => fits_host 9 a

theorem EncodedSize.cfgAiuBit5 (a : HostAccess) : EncodedSize.Statement (.cfgAiuBit5 a) := fun _ _ _ => fits_host 10 a

theorem EncodedSize.cfgAiuBit6 (a : HostAccess) : EncodedSize.Statement (.cfgAiuBit6 a) := fun _ _ _ => fits_host 11 a

theorem EncodedSize.cfgAiuBit7 (a : HostAccess) : EncodedSize.Statement (.cfgAiuBit7 a) := fun _ _ _ => fits_host 12 a

theorem EncodedSize.cfgAiuBit8 (a : HostAccess) : EncodedSize.Statement (.cfgAiuBit8 a) := fun _ _ _ => fits_host 13 a

theorem EncodedSize.cfgAiuBit9 (a : HostAccess) : EncodedSize.Statement (.cfgAiuBit9 a) := fun _ _ _ => fits_host 14 a

theorem EncodedSize.cfgAiuBit10 (a : HostAccess) : EncodedSize.Statement (.cfgAiuBit10 a) := fun _ _ _ => fits_host 15 a

theorem EncodedSize.cfgAiuBit11 (a : HostAccess) : EncodedSize.Statement (.cfgAiuBit11 a) := fun _ _ _ => fits_host 16 a

theorem EncodedSize.cfgAiuBit12 (a : HostAccess) : EncodedSize.Statement (.cfgAiuBit12 a) := fun _ _ _ => fits_host 17 a

theorem EncodedSize.cfgAiuBit13 (a : HostAccess) : EncodedSize.Statement (.cfgAiuBit13 a) := fun _ _ _ => fits_host 18 a

theorem EncodedSize.cfgCabState (a : HostAccess) : EncodedSize.Statement (.cfgCabState a) := fun _ _ _ => fits_host 19 a

theorem EncodedSize.cfgRead (reg : Byte) : EncodedSize.Statement (.cfgRead reg) := fun _ _ _ => trivial

theorem EncodedSize.cfgWrite (reg : Byte) (v : Word16) : EncodedSize.Statement (.cfgWrite reg v) := fun _ _ _ => trivial

theorem EncodedSize.reset : EncodedSize.Statement .reset := fun _ _ _ => trivial

end Sys2Proof.Laws
end

