-- ==== Sys2Proof/Tests/Slice0.lean ====
section
/-! SUPPORT. Tests of the model on small states, each one step or one decoding, with expected values from the spec's
encodings (spec/30_encoding.md) and hand-computed vectors (spec/95_test_vectors.md); the well-formedness smoke test;
and, for every obligation with hypotheses, a state and operands that meet them all. -/

namespace Sys2Proof.Tests

open Sys2Proof Sys2Proof.Machine

/-! ### Helpers -/

/-- The reset machine with a cab type and an address set by the host. -/
def node (t : Byte) (a : BitVec 6) : State := { State.reset with cabType := t, cabAddr := a }

/-- A slot holding one frame. -/
def slotOf (g0 g1 g2 g3 : Byte) : TxSlot := fillSlot ⟨0, []⟩ g0 g1 g2 g3

/-- The state after an outcome; the reset state for a stop. -/
def after (r : Result) : State :=
  match r with
  | .next t => t
  | _ => State.reset

/-- The pending frames after an outcome, slot 0 first. -/
def staged (r : Result) : List (List Byte) :=
  [(after r).tx0, (after r).tx1].filterMap (fun t => if pending t then some (slotFrame t) else none)

/-- What an outcome put on `up_tx`, on `bus_tx`, and what is staged. -/
def outs (r : Result) : List (List Byte) × List (List Byte) × List (List Byte) :=
  ((after r).upTx, (after r).busTx, staged r)

/-- A unit run on the reset state. -/
def run (i : Instr) : Result := exec i State.reset

/-- A state in the middle of everything: an upstream packet `A2 00`, a staged frame, an inbound text block `C0`, a
reply `D8`, and one transaction presented. -/
def busy (x : Input) : State :=
  { node 0x61 5 with
    uaCnt := 2, uaLen := 5, uaBuf := [(0, 0xA2)]
    tx0 := ⟨5, [(0, 0x4F), (1, 0x32), (2, 0x01), (3, 0x02), (4, 0x7E)]⟩
    cabState := .execMyCmd
    ibCnt := 1, ibLen := 9, ibBuf := [(0, 0xC0)]
    raActive := true, raSize := 3, raCnt := 1, raBuf := [(0, 0xD8)]
    fcHours := 12, fcMinutes := 34, fcMode := .pm
    inputs := [x] }

/-! ### Well-formedness smoke test: for each check, an ill-formed term that it refuses -/

/-- Upstream: the class, the range, the length of an unsupported packet, an opcode inside the range. -/
theorem test_wf_upstream_refused :
    Instr.wf cfgDefault (.upNop 0x8C) = false ∧ Instr.wf cfgDefault (.upStatus 0x9C 0) = false ∧
      Instr.wf cfgDefault (.upLocoCtrl 0xAD 0 0 0) = false ∧ Instr.wf cfgDefault (.upNop 0x00) = false ∧
      Instr.wf cfgDefault (.upUnsupported 0x81 [0x00]) = false ∧ Instr.wf cfgDefault (.upOutOfRange 0x81) = false := by
  decide

/-- Replies and register numbers: a lead byte as no reply, a mapped number as a generic access. -/
theorem test_wf_reply_host_refused :
    Instr.wf cfgDefault (.replyNone 0xD9) = false ∧ Instr.wf cfgDefault (.cfgRead 19) = false ∧
      Instr.wf cfgDefault (.cfgWrite 0 1) = false ∧ Instr.wf cfgDefault (.cfgRead 20) = true := by decide

/-- Inbound: the class, the mode, the text length, the position bits, a byte no adjustment gives, a poll byte as
opcode and as unadjusted data. -/
theorem test_wf_inbound_refused :
    Instr.wf cfgDefault (.ibHome 0xCF) = false ∧ Instr.wf cfgDefault (.ibFcRate 0xC8 0) = false ∧
      Instr.wf cfgDefault (.ibLcdText0 0xC0 [0x41]) = false ∧
      Instr.wf cfgDefault (.ibLcdText1 0xC0 [0x41, 0x41, 0x41, 0x41, 0x41, 0x41, 0x41, 0x41]) = false ∧
      Instr.wf cfgDefault (.ibLcdText0 0xC0 [0x41, 0xC1, 0x41, 0x41, 0x41, 0x41, 0x41, 0x41]) = false ∧
      Instr.wf cfgDefault (.ibTtyAdv 0xC9 0x85) = false ∧ Instr.wf cfgDefault (.ibUnknown .addressed 0x85) = false ∧
      Instr.wf cfgDefault (.ibUnknown .addressed 0xD2) = false ∧ Instr.wf cfgDefault (.ibIgnored 0xBF) = false := by
  decide

/-- Rule R1 (a), (b), (d): a range the wrong way round, a length of 0, of 12 and not of the format, a base too high. -/
theorem test_cfg_upstream_refused :
    (({ cfgDefault with up := { upDefault with base := 0xB0 } } : Cfg).wellFormed = false ∧
      ({ cfgDefault with up := { upDefault with table := [⟨0x81, 0, .unsupported⟩] } } : Cfg).wellFormed = false ∧
      ({ cfgDefault with up := { upDefault with table := [⟨0x81, 12, .unsupported⟩] } } : Cfg).wellFormed = false ∧
      ({ cfgDefault with up := { upDefault with table := [⟨0x80, 2, .nop⟩] } } : Cfg).wellFormed = false ∧
      ({ cfgDefault with up := { upDefault with table := [⟨0xA9, 3, .cvReadDirect ⟨0x45, 0xC1, false⟩⟩] } } :
        Cfg).wellFormed = false) := by decide

/-- Rule R1 (c), (e), (f), (g), and the conditions on the positions (rules R16, R178). -/
theorem test_cfg_other_refused :
    (({ cfgDefault with ib := { ibDefault with broadcast := [⟨0xD4, 10, .noClass⟩] } } : Cfg).wellFormed = false ∧
      ({ cfgDefault with ib := { ibDefault with broadcast := [⟨0x85, 2, .fcRate⟩] } } : Cfg).wellFormed = false ∧
      ({ cfgDefault with ib := { ibDefault with addressed := [⟨0xCE, 2, .cursorMode .home⟩] } } :
        Cfg).wellFormed = false ∧
      ({ cfgDefault with rsp := { rspDefault with cvRange := 0x31 } } : Cfg).wellFormed = false ∧
      ({ cfgDefault with dev := { devDefault with cabTypeSmart := 0x61 } } : Cfg).wellFormed = false ∧
      ({ cfgDefault with dev := { devDefault with noKey := 127 } } : Cfg).wellFormed = false ∧
      ({ cfgDefault with ib := { ibDefault with asciiFrom := 0 } } : Cfg).wellFormed = false ∧
      ({ cfgDefault with ib := { ibDefault with fcHPos := 1 } } : Cfg).wellFormed = false ∧
      ({ cfgDefault with ib := { ibDefault with fcModePos := 9 } } : Cfg).wellFormed = false) := by decide

/-! ### Decoding: every unit from a wire unit written out from spec/30_encoding.md -/

theorem test_decode_poll :
    decode cfgDefault (.pc .unknown [0b10000101]) = .ok (.poll 5) ∧
      decode cfgDefault (.pc .execMyCmd [0b10000000]) = .ok (.poll 0) ∧
      decode cfgDefault (.pc .pingOther [0b10111111]) = .ok (.poll 63) := by decide

theorem test_decode_reply :
    decode cfgDefault (.ra [0xD8, 0x02, 0x15]) = .ok (.replyD8 0x02 0x15) ∧
      decode cfgDefault (.ra [0xD9, 0x0A, 0x17, 0x2C]) = .ok (.replyD9 0x0A 0x17 0x2C) ∧
      decode cfgDefault (.ra [0xDA, 0x01, 0x12, 0x0D, 0x15, 0x27, 0x38]) =
        .ok (.replyDA 0x01 0x12 0x0D 0x15 0x27 0x38) ∧
      decode cfgDefault (.ra [0xDB]) = .ok (.replyNone 0xDB) ∧
      decode cfgDefault (.ra [0xD8, 0x02]) = .error .badLength ∧
      decode cfgDefault (.ra [0xD7, 0x02]) = .error .badLead := by decide

theorem test_decode_up_short :
    decode cfgDefault (.up [0x80]) = .ok (.upNop 0x80) ∧ decode cfgDefault (.up [0x8C]) = .ok (.upNopCrlf 0x8C) ∧
      decode cfgDefault (.up [0x9B, 0x7F]) = .ok (.upStatus 0x9B 0x7F) ∧
      decode cfgDefault (.up [0x9C, 0x05]) = .ok (.upMacro 0x9C 0x05) ∧
      decode cfgDefault (.up [0x9E]) = .ok (.upProgEnter 0x9E) ∧
      decode cfgDefault (.up [0x9F]) = .ok (.upProgExit 0x9F) ∧
      decode cfgDefault (.up [0xAA]) = .ok (.upFwVer 0xAA) ∧
      decode cfgDefault (.up [0x81]) = .ok (.upUnsupported 0x81 []) ∧
      decode cfgDefault (.up [0xB0]) = .ok (.upOutOfRange 0xB0) ∧
      decode cfgDefault (.up [0x80, 0x00]) = .error .badLength := by decide

theorem test_decode_up_cv :
    decode cfgDefault (.up [0xA0, 0x12, 0x34, 0x56]) = .ok (.upCvProgPaged 0xA0 0x1234 0x56) ∧
      decode cfgDefault (.up [0xA1, 0x12, 0x34]) = .ok (.upCvReadPaged 0xA1 0x1234) ∧
      decode cfgDefault (.up [0xA6, 0x03, 0x7F]) = .ok (.upRegProg 0xA6 0x03 0x7F) ∧
      decode cfgDefault (.up [0xA7, 0xFF]) = .ok (.upRegRead 0xA7 0xFF) ∧
      decode cfgDefault (.up [0xA8, 0x00, 0x1D, 0x86]) = .ok (.upCvProgDirect 0xA8 29 0x86) ∧
      decode cfgDefault (.up [0xA9, 0x04, 0x00]) = .ok (.upCvReadDirect 0xA9 1024) := by decide

theorem test_decode_up_addr :
    decode cfgDefault (.up [0xA2, 0x00, 0x32, 0x01, 0x02]) = .ok (.upLocoCtrl 0xA2 50 0x01 0x02) ∧
      decode cfgDefault (.up [0xAD, 0x01, 0x2C, 0x03, 0x00]) = .ok (.upAccCtrl 0xAD 300 0x03 0x00) ∧
      decode cfgDefault (.up [0xAE, 0x04, 0xD2, 0x00, 0x1D, 0x86]) = .ok (.upOpsLoco 0xAE 1234 29 0x86) ∧
      decode cfgDefault (.up [0xAF, 0x00, 0x64, 0x00, 0x03, 0xFF]) = .ok (.upOpsAcc 0xAF 100 3 0xFF) := by decide

theorem test_decode_ib_text :
    decode cfgDefault (.pc .execMyCmd [0xC0, 1, 2, 3, 4, 5, 6, 7, 8]) = .ok (.ibLcdText0 0xC0 [1, 2, 3, 4, 5, 6, 7, 8]) ∧
      decode cfgDefault (.pc .execMyCmd [0xC1, 1, 2, 3, 4, 5, 6, 7, 8]) =
        .ok (.ibLcdText1 0xC1 [1, 2, 3, 4, 5, 6, 7, 8]) ∧
      decode cfgDefault (.pc .execMyCmd [0xC2, 1, 2, 3, 4, 5, 6, 7, 8]) =
        .ok (.ibLcdText2 0xC2 [1, 2, 3, 4, 5, 6, 7, 8]) ∧
      decode cfgDefault (.pc .execMyCmd [0xC3, 1, 2, 3, 4, 5, 6, 7, 8]) =
        .ok (.ibLcdText3 0xC3 [1, 2, 3, 4, 5, 6, 7, 8]) ∧
      decode cfgDefault (.pc .execBroadcastCmd [0xC1, 1, 2, 3, 4, 5, 6, 7, 8]) =
        .ok (.ibFcTime 0xC1 [1, 2, 3, 4, 5, 6, 7, 8]) := by decide

theorem test_decode_ib_short :
    decode cfgDefault (.pc .execMyCmd [0xC8, 0x3F]) = .ok (.ibCursorMove 0xC8 0x3F) ∧
      decode cfgDefault (.pc .execMyCmd [0xC9, 0x41]) = .ok (.ibTtyAdv 0xC9 0x41) ∧
      decode cfgDefault (.pc .execMyCmd [0xCA, 0xFF]) = .ok (.ibTtyNoadv 0xCA 0xFF) ∧
      decode cfgDefault (.pc .execMyCmd [0xCE]) = .ok (.ibHome 0xCE) ∧
      decode cfgDefault (.pc .execMyCmd [0xCF]) = .ok (.ibClear 0xCF) ∧
      decode cfgDefault (.pc .execMyCmd [0xD0]) = .ok (.ibCursorOff 0xD0) ∧
      decode cfgDefault (.pc .execMyCmd [0xD1]) = .ok (.ibCursorOn 0xD1) ∧
      decode cfgDefault (.pc .execMyCmd [0xD2]) = .ok (.ibCabTypeQuery 0xD2) ∧
      decode cfgDefault (.pc .execMyCmd [0xD3]) = .ok (.ibDispRight 0xD3) := by decide

theorem test_decode_ib_other :
    decode cfgDefault (.pc .execBroadcastCmd [0xD4, 0x05]) = .ok (.ibFcRate 0xD4 0x05) ∧
      decode cfgDefault (.pc .execMyCmd [0xD4]) = .ok (.ibUnknown .addressed 0xD4) ∧
      decode cfgDefault (.pc .execBroadcastCmd [0xCF]) = .ok (.ibUnknown .broadcast 0xCF) ∧
      decode cfgDefault (.pc .pingOther [0xCF]) = .ok (.ibIgnored 0xCF) ∧
      decode cfgDefault (.pc .unknown [0x00]) = .ok (.ibIgnored 0x00) ∧
      decode { cfgDefault with ib := { ibDefault with addressed := [⟨0xCB, 1, .noClass⟩] } }
        (.pc .execMyCmd [0xCB]) = .error .noClass := by decide

theorem test_decode_host :
    decode cfgDefault (.hostRead 0) = .ok (.cfgCabType .read) ∧
      decode cfgDefault (.hostWrite 1 5) = .ok (.cfgCabAddr (.write 5)) ∧
      decode cfgDefault (.hostRead 2) = .ok (.cfgSpeed .read) ∧ decode cfgDefault (.hostRead 3) = .ok (.cfgKey .read) ∧
      decode cfgDefault (.hostRead 4) = .ok (.cfgAiu .read) ∧
      decode cfgDefault (.hostRead 19) = .ok (.cfgCabState .read) ∧
      decode cfgDefault (.hostRead 20) = .ok (.cfgRead 20) ∧
      decode cfgDefault (.hostWrite 255 9) = .ok (.cfgWrite 255 9) ∧ decode cfgDefault .rst = .ok .reset := by decide

/-- Rule R200: the fourteen bit registers are numbers 5 to 18. -/
theorem test_decode_aiu_bits :
    ∀ n : Fin 14, decode cfgDefault (.hostRead (BitVec.ofNat 8 (5 + n.val))) = .ok (aiuBitInstr n .read) := by decide

/-- Words of the unit table: one byte each, the operand bytes zero; 0xC1 and 0x80 read as log entry 8 says. -/
theorem test_table_words :
    decodeTableWord 8 0xA2 = some (.upLocoCtrl 0xA2 0 0 0) ∧ decodeTableWord 8 0x85 = some (.poll 5) ∧
      decodeTableWord 8 0xD9 = some (.replyD9 0 0 0) ∧ decodeTableWord 8 0xC8 = some (.ibCursorMove 0xC8 0) ∧
      decodeTableWord 8 0xD4 = some (.ibFcRate 0xD4 0) ∧ decodeTableWord 8 0x0C = some (.cfgAiuBit7 .read) ∧
      decodeTableWord 8 0x80 = some (.upNop 0x80) := by decide

/-! ### Codec (spec/95_test_vectors.md section 2.1) -/

theorem test_codec_split :
    xor4 0x4F 0x32 0x01 0x02 = 0x7E ∧ xor4 0x4E 0x10 0x00 0xFF = 0xA1 ∧ (hi7 0x0080, lo7 0x0080) = (0x01, 0x00) ∧
      (hi7 0x1234, lo7 0x1234) = (0x24, 0x34) ∧ (hi7 0xFFFF, lo7 0xFFFF) = (0x7F, 0x7F) ∧
      addrEnc 127 = (0x4F, 0x7F) ∧ addrEnc 128 = (0x01, 0x00) ∧ addrEnc 2044 = (0x0F, 0x7C) ∧
      addrEnc 9999 = (0x4E, 0x0F) := by decide

theorem test_codec_cv :
    cvPack 0 29 0x86 = (0x00, 0x3B, 0x06) ∧ cvPack 0 0x40 0x80 = (0x01, 0x01, 0x00) ∧
      cvPack 0x40 0xFFF 0xFF = (0x7F, 0x7F, 0x7F) ∧ cvUnpack 0 0x00 0x3B 0x06 = (29, 0x86) ∧
      cvUnpack 0x40 0x7F 0x7F 0x7F = (0xFFF, 0xFF) := by decide

theorem test_codec_ascii_decimal :
    [0x1F, 0x3F, 0x5F, 0x60, 0xE0, 0xC1, 0xF1, 0x61].map asciiAdj = [0x1F, 0x3F, 0x5F, 0x20, 0x20, 0x41, 0x31, 0x21] ∧
      dec2 0x31 0x32 = 12 ∧ dec2 0x20 0x37 = 7 ∧ dec2 0x39 0x39 = 99 ∧ dec2 0x3A 0x41 = 0 := by decide

theorem test_codec_replies :
    unpD8 0x02 0x15 = [0x95] ∧ unpD8 0xFC 0xC0 = [0x00] ∧ unpD9 0x0A 0x17 0x2C = [0xA5, 0xEC] ∧
      unpDA 0x01 0x12 0x0D 0x15 0x27 0x38 = [0x52, 0x35, 0x59, 0xF8] ∧
      [0x00, 0x10, 0x20, 0x30, 0xCF].map (replyCode rspDefault) = [0x21, 0x31, 0x32, 0x33, 0x21] := by decide

/-! ### Meanings: one unit on a small state (spec/95_test_vectors.md sections 2.3 to 2.7) -/

theorem test_up_answers :
    outs (run (.upNop 0x80)) = ([[0x21]], [], []) ∧ outs (run (.upNopCrlf 0x8C)) = ([[0x21, 0x0D, 0x0A]], [], []) ∧
      outs (run (.upFwVer 0xAA)) = ([[0x07, 0x03, 0x00]], [], []) ∧
      outs (run (.upUnsupported 0x81 [])) = ([[0x30]], [], []) ∧
      outs (run (.upOutOfRange 0x7F)) = ([[0x30]], [], []) := by decide

theorem test_up_fixed :
    outs (run (.upStatus 0x9B 0xFF)) = ([], [], [[0x4E, 0x10, 0x00, 0xFF, 0xA1]]) ∧
      outs (run (.upMacro 0x9C 0x05)) = ([], [], [[0x4E, 0x11, 0x00, 0x05, 0x5A]]) ∧
      outs (run (.upProgEnter 0x9E)) = ([[0x21]], [], [[0x4E, 0x12, 0x00, 0x00, 0x5C]]) ∧
      outs (run (.upProgExit 0x9F)) = ([[0x21]], [], [[0x4E, 0x13, 0x00, 0x00, 0x5D]]) := by decide

theorem test_up_loco :
    outs (run (.upLocoCtrl 0xA2 50 1 2)) = ([[0x21]], [], [[0x4F, 0x32, 0x01, 0x02, 0x7E]]) ∧
      outs (run (.upLocoCtrl 0xA2 127 4 0x7F)) = ([[0x21]], [], [[0x4F, 0x7F, 0x04, 0x7F, 0x4B]]) ∧
      outs (run (.upLocoCtrl 0xA2 128 4 0x7F)) = ([[0x21]], [], [[0x01, 0x00, 0x04, 0x7F, 0x7A]]) ∧
      outs (run (.upLocoCtrl 0xA2 9999 5 1)) = ([[0x21]], [], [[0x4E, 0x0F, 0x05, 0x01, 0x45]]) ∧
      outs (run (.upLocoCtrl 0xA2 10000 5 1)) = ([[0x31]], [], []) := by decide

theorem test_up_acc :
    outs (run (.upAccCtrl 0xAD 300 3 0)) = ([[0x21]], [], [[0x02, 0x2C, 0x03, 0x00, 0x2D]]) ∧
      outs (run (.upAccCtrl 0xAD 2044 3 0)) = ([[0x21]], [], [[0x0F, 0x7C, 0x03, 0x00, 0x70]]) ∧
      outs (run (.upAccCtrl 0xAD 2045 3 0)) = ([[0x31]], [], []) := by decide

theorem test_up_cv_direct :
    outs (run (.upCvProgDirect 0xA8 29 0x86)) = ([], [], [[0x44, 0x00, 0x3B, 0x06, 0x79]]) ∧
      outs (run (.upCvProgDirect 0xA8 0xFFF 0xFF)) = ([], [], [[0x44, 0x3F, 0x7F, 0x7F, 0x7B]]) ∧
      outs (run (.upCvProgDirect 0xA8 0x1000 0)) = ([[0x33]], [], []) ∧
      outs (run (.upCvReadDirect 0xA9 0xFFF)) = ([], [], [[0x45, 0x3F, 0x7E, 0x00, 0x04]]) := by decide

theorem test_up_cv_paged :
    outs (run (.upCvProgPaged 0xA0 0x40 0x80)) = ([], [], [[0x40, 0x01, 0x01, 0x00, 0x40]]) ∧
      outs (run (.upCvReadPaged 0xA1 0x40)) = ([], [], [[0x41, 0x01, 0x00, 0x00, 0x40]]) ∧
      outs (run (.upCvReadPaged 0xA1 0x1000)) = ([[0x33]], [], []) := by decide

theorem test_up_register :
    outs (run (.upRegProg 0xA6 0xFF 0xFF)) = ([], [], [[0x42, 0x03, 0x7F, 0x7F, 0x41]]) ∧
      outs (run (.upRegRead 0xA7 0xFF)) = ([], [], [[0x43, 0x03, 0x7E, 0x00, 0x3E]]) := by decide

theorem test_up_ops :
    outs (run (.upOpsLoco 0xAE 1234 29 0x86)) =
        ([[0x21]], [], [[0x09, 0x52, 0x00, 0x00, 0x5B], [0x46, 0x00, 0x3B, 0x06, 0x7B]]) ∧
      outs (run (.upOpsLoco 0xAE 10000 0x1000 0)) = ([[0x31]], [], []) ∧
      outs (run (.upOpsLoco 0xAE 3 0x1000 0)) = ([[0x33]], [], []) ∧
      outs (run (.upOpsAcc 0xAF 2044 0 0x80)) =
        ([[0x21]], [], [[0x0F, 0x7C, 0x00, 0x00, 0x73], [0x47, 0x00, 0x01, 0x00, 0x46]]) ∧
      outs (run (.upOpsAcc 0xAF 2045 0 0x80)) = ([[0x31]], [], []) := by decide

/-- Rules R121, R135: an error leaves both slots; a one-frame command after a two-frame one empties slot 1. -/
theorem test_up_slots_kept_and_replaced :
    staged (exec (.upLocoCtrl 0xA2 15000 1 2) { State.reset with tx0 := slotOf 1 2 3 4, tx1 := slotOf 5 6 7 8 }) =
        [[1, 2, 3, 4, 4], [5, 6, 7, 8, 12]] ∧
      staged (exec (.upLocoCtrl 0xA2 50 1 2) { State.reset with tx0 := slotOf 1 2 3 4, tx1 := slotOf 5 6 7 8 }) =
        [[0x4F, 0x32, 0x01, 0x02, 0x7E]] := by decide

theorem test_poll_states :
    (after (exec (.poll 0) (node 0x61 0))).cabState = .execBroadcastCmd ∧
      (after (exec (.poll 5) (node 0x61 6))).cabState = .pingOther ∧
      (after (exec (.poll 5) (node 0x61 5))).cabState = .execMyCmd ∧
      (after (exec (.poll 6) (busy .reset))).ibCnt = 0 := by decide

/-- Flush before key report, slot 0 first; key and speed; AIU halves; SMART and reserved types silent. -/
theorem test_poll_turn :
    (after (exec (.poll 5) { node 0x61 5 with tx0 := slotOf 1 2 3 4, tx1 := slotOf 5 6 7 8, key := 0x48 })).busTx =
        [[1, 2, 3, 4, 4], [5, 6, 7, 8, 12]] ∧
      (after (exec (.poll 5) { node 0x61 5 with key := 0x48, speed := 0x20 })).busTx = [[0x48, 0x20]] ∧
      (after (exec (.poll 5) { node 0x61 5 with key := 0x48, speed := 0x20 })).key = 0x7D ∧
      (after (exec (.poll 16) { node 0x64 16 with aiu := 0x2A55, tx0 := slotOf 1 2 3 4 })).busTx = [[0x55, 0x54]] ∧
      (after (exec (.poll 5) (node 0x63 5))).busTx = [] ∧ (after (exec (.poll 5) (node 0x65 5))).busTx = [] := by decide

theorem test_replies :
    (after (run (.replyD8 0x02 0x15))).upTx = [[0x95, 0x21]] ∧ (after (run (.replyD8 0xFF 0xFF))).upTx = [[0xFF, 0x33]] ∧
      (after (run (.replyD9 0x1A 0x17 0x2C))).upTx = [[0xA5, 0xEC, 0x31]] ∧
      (after (run (.replyDA 0x33 0x3F 0x3F 0x3F 0x3F 0x3F))).upTx = [[0xFF, 0xFF, 0xFF, 0xFF, 0x33]] ∧
      (after (run (.replyNone 0xD7))).upTx = [] := by decide

theorem test_ib_text :
    (after (run (.ibLcdText0 0xC0 [0xC8, 0x45]))).evt = [.lcdUpdate 0 0 [0xC8, 0x45] 8] ∧
      (after (run (.ibLcdText1 0xC1 [0x41]))).evt = [.lcdUpdate 8 0 [0x41] 8] ∧
      (after (run (.ibLcdText2 0xC2 [0x41]))).evt = [.lcdUpdate 0 1 [0x41] 8] ∧
      (after (run (.ibLcdText3 0xC3 [0x41]))).evt = [.lcdUpdate 8 1 [0x41] 8] := by decide

theorem test_ib_display :
    (after (run (.ibCursorMove 0xC8 0xFF))).evt = [.lcdMoveCursor 15 3] ∧
      (after (run (.ibTtyAdv 0xC9 0x41))).evt = [.lcdPrintChar 0x41 true] ∧
      (after (run (.ibTtyNoadv 0xCA 0xFF))).evt = [.lcdPrintChar 0xFF false] ∧
      (after (run (.ibHome 0xCE))).evt = [.lcdCursorMode .home] ∧
      (after (run (.ibClear 0xCF))).evt = [.lcdCursorMode .clear] ∧
      (after (run (.ibCursorOff 0xD0))).evt = [.lcdCursorMode .cursorOff] ∧
      (after (run (.ibCursorOn 0xD1))).evt = [.lcdCursorMode .cursorOn] ∧
      (after (run (.ibDispRight 0xD3))).evt = [.lcdCursorMode .dispRight] := by decide

theorem test_ib_silent :
    (after (exec (.ibCabTypeQuery 0xD2) (node 0x63 5))).busTx = [[0x63]] ∧
      exec (.ibUnknown .addressed 0xC4) (node 0x63 5) = .next (node 0x63 5) ∧
      exec (.ibIgnored 0xCF) (node 0x63 5) = .next (node 0x63 5) := ⟨rfl, rfl, rfl⟩

/-- Program P3 of section 3: " 12:34PM" with rate 5 raises the event, with rate 0 only the cache changes. -/
theorem test_fc_time :
    (after (exec (.ibFcTime 0xC1 [0xE0, 0x31, 0x32, 0x3A, 0x33, 0x34, 0x50, 0x4D]) { State.reset with fcRate := 5 })).evt =
        [.fastClock 12 34 5 .pm] ∧
      (after (run (.ibFcTime 0xC1 [0xE0, 0x20, 0x37, 0x3A, 0x30, 0x35, 0x41, 0x4D]))).evt = [] ∧
      (after (run (.ibFcTime 0xC1 [0xE0, 0x20, 0x37, 0x3A, 0x30, 0x35, 0x41, 0x4D]))).fcMode = .am := by decide

/-- Scenario A: without a mode the rate is cached silently; with one, a changed rate raises the event. -/
theorem test_fc_rate :
    (after (run (.ibFcRate 0xD4 5))).fcRate = 5 ∧ (after (run (.ibFcRate 0xD4 5))).evt = [] ∧
      (after (exec (.ibFcRate 0xD4 5) (busy .reset))).evt = [.fastClock 12 34 5 .pm] ∧
      (after (exec (.ibFcRate 0xD4 0xC0) (busy .reset))).evt = [] := by decide

/-- Section 2.7: truncated writes and zero-extended reads. -/
theorem test_host_writes :
    (after (run (.cfgCabType (.write 0x161)))).cabType = 0x61 ∧ (after (run (.cfgCabAddr (.write 0x45)))).cabAddr = 5 ∧
      (after (run (.cfgSpeed (.write 0xFF)))).speed = 0x7F ∧ (after (run (.cfgKey (.write 0x80)))).key = 0 ∧
      (after (run (.cfgAiu (.write 0xFFFF)))).aiu = 0x3FFF ∧ exec (.cfgCabState (.write 3)) State.reset = run (.ibIgnored 0) ∧
      exec (.cfgWrite 20 0x55) State.reset = run (.ibIgnored 0) :=
  ⟨by decide, by decide, by decide, by decide, by decide, rfl, rfl⟩

theorem test_host_reads :
    (after (run (.cfgCabType .read))).hostOut = [0] ∧ (after (run (.cfgCabAddr .read))).hostOut = [0] ∧
      (after (run (.cfgSpeed .read))).hostOut = [0x7F] ∧ (after (run (.cfgKey .read))).hostOut = [0x7D] ∧
      (after (run (.cfgAiu .read))).hostOut = [0] ∧ (after (run (.cfgCabState .read))).hostOut = [0] ∧
      (after (exec (.cfgCabState .read) (busy .reset))).hostOut = [2] ∧ (after (run (.cfgRead 20))).hostOut = [0] := by
  decide

/-- Clearing bit 7 of 0x3FFF gives 0x3F7F; each bit register reads its own bit. -/
theorem test_host_aiu_bits :
    (after (exec (.cfgAiuBit7 (.write 0)) { State.reset with aiu := 0x3FFF })).aiu = 0x3F7F ∧
      (after (exec (.cfgAiuBit13 (.write 0xFFFF)) State.reset)).aiu = 0x2000 ∧
      (∀ n k : Fin 14, (after (exec (aiuBitInstr n .read) { State.reset with aiu := 1#14 <<< k.val })).hostOut =
        [if n = k then 1 else 0]) := by decide

/-- Section 2.8: a reset ends every partial unit and restores the registers; what was presented stays. -/
theorem test_reset :
    let t := after (exec .reset (busy (.upByte 0x80)))
    quiescent t = true ∧ t.cabAddr = 0 ∧ t.cabType = 0 ∧ t.fcMode = .none ∧ t.inputs = [.upByte 0x80] ∧ t.upTx = [] := by
  decide

/-! ### One step of the machine -/

/-- The last byte of a packet, of a text block and of a reply completes and runs it; a lead byte inside is data. -/
theorem test_step_completes :
    (after (step { busy (.upByte 0x02) with uaCnt := 4, uaBuf := [(0, 0xA2), (2, 0x32), (3, 0x01)] })).upTx = [[0x21]] ∧
      (after (step { busy (.busByte 0xC1 true false) with ibCnt := 8 })).evt =
        [.lcdUpdate 0 0 [0, 0, 0, 0, 0, 0, 0, 0x41] 8] ∧
      (after (step { busy (.busByte 0x00 false true) with raCnt := 2, raBuf := [(0, 0xD8), (1, 0xD9)] })).upTx =
        [[0x40, 0x31]] := by decide

/-- A poll byte ends a partial command; the same byte is data to the reply assembler. -/
theorem test_step_poll_byte :
    let t := after (step (busy (.busByte 0x86 true true)))
    t.cabState = .pingOther ∧ t.ibCnt = 0 ∧ t.raCnt = 2 ∧ memRead t.raBuf 1 = 0x86 := by decide

/-- A placed word is the very next step's unit, and the host probe's words run from the reset state. -/
theorem test_step_fetch_word :
    (after (step (State.reset.withFetchWord 8 0xAA))).upTx = [[0x07, 0x03, 0x00]] ∧
      staged (step (State.reset.withFetchWord 8 0xAE)) = [[0x4F, 0x00, 0x00, 0x00, 0x4F], [0x46, 0x00, 0x00, 0x00, 0x46]] ∧
      (after (step (State.reset.withFetchWord 8 0xDA))).upTx = [[0, 0, 0, 0, 0x21]] ∧
      (after (step (State.reset.withFetchWord 8 0xC3))).evt = [.lcdUpdate 8 1 [0, 0, 0, 0, 0, 0, 0, 0] 8] ∧
      (after (step (State.reset.withFetchWord 8 0xD2))).busTx = [[0x00]] ∧
      (after (step (State.reset.withFetchWord 8 0x02))).hostOut = [0x7F] := by decide

/-! ### Witnesses: for each obligation with hypotheses, operands that meet them -/

theorem test_witness_AddressFormsAreDistinct :
    ((9999 : Word16).toNat ≤ 9999 ∧ 127 < (9999 : Word16).toNat) ∧ ((128 : Word16).toNat ≤ 9999 ∧ 127 < (128 : Word16).toNat) ∧
      ((127 : Word16).toNat ≤ 9999 ∧ addrEnc 127 = addrEnc 127) := by decide

theorem test_witness_CvSplitRoundTrip : (0xC0 : Byte).toNat + 63 ≤ 255 ∧ (0xFFF : Word16).toNat ≤ 0x0FFF := by decide

theorem test_witness_FirmwareVersionAnswer : upClassOf State.reset.cfg.up 0xAA = .fwVer 0x07 0x03 0x00 := by decide

theorem test_witness_FixedCommandsStageOneFrame :
    upClassOf State.reset.cfg.up 0x9B = .status ⟨0x4E, 0x10, 0x00, 0x00, false⟩ ∧
      upClassOf State.reset.cfg.up 0x9C = .runMacro ⟨0x4E, 0x11, 0x00, 0x00, false⟩ ∧
      upClassOf State.reset.cfg.up 0x9E = .progEnter ⟨0x4E, 0x12, 0x00, 0x00, true⟩ ∧
      upClassOf State.reset.cfg.up 0x9F = .progExit ⟨0x4E, 0x13, 0x00, 0x00, true⟩ := by decide

theorem test_witness_LocoControlStagesOrRejects : upClassOf State.reset.cfg.up 0xA2 = .locoCtrl true := by decide

theorem test_witness_AccessoryControlStagesOrRejects : upClassOf State.reset.cfg.up 0xAD = .accCtrl true := by decide

theorem test_witness_CvCommandsStageOrReject :
    upClassOf State.reset.cfg.up 0xA0 = .cvProgPaged ⟨0x40, 0x00, false⟩ ∧
      upClassOf State.reset.cfg.up 0xA8 = .cvProgDirect ⟨0x44, 0x00, false⟩ ∧
      upClassOf State.reset.cfg.up 0xA1 = .cvReadPaged ⟨0x41, 0x00, false⟩ ∧
      upClassOf State.reset.cfg.up 0xA9 = .cvReadDirect ⟨0x45, 0x00, false⟩ := by decide

theorem test_witness_RegisterCommandsStage :
    upClassOf State.reset.cfg.up 0xA6 = .regProg ⟨0x42, 0x00, false⟩ ∧
      upClassOf State.reset.cfg.up 0xA7 = .regRead ⟨0x43, 0x00, false⟩ := by decide

theorem test_witness_OpsLocoStagesTwoOrRejects :
    upClassOf State.reset.cfg.up 0xAE = .opsLoco ⟨0x00, 0x00, 0x46, 0x00, true⟩ := by decide

theorem test_witness_OpsAccessoryStagesTwoOrRejects :
    upClassOf State.reset.cfg.up 0xAF = .opsAcc ⟨0x00, 0x00, 0x47, 0x00, true⟩ := by decide

theorem test_witness_TranslatorStagesSoundFrames :
    decode cfgDefault (.up [0xA2, 0x27, 0x0F, 0x05, 0x01]) = .ok (.upLocoCtrl 0xA2 9999 5 1) ∧
      exec (.upLocoCtrl 0xA2 9999 5 1) (busy .reset) = .next (after (exec (.upLocoCtrl 0xA2 9999 5 1) (busy .reset))) :=
  ⟨by decide, rfl⟩

theorem test_witness_PollByteSelectsState :
    ((0 : BitVec 6) = 0) ∧ ((63 : BitVec 6) ≠ 0 ∧ (63 : BitVec 6) ≠ (node 0x61 1).cabAddr) ∧
      ((63 : BitVec 6) ≠ 0 ∧ (63 : BitVec 6) = (node 0x61 63).cabAddr) := by decide

theorem test_witness_PollTurnFlushesStagedFrames :
    (1 : BitVec 6) ≠ 0 ∧ (1 : BitVec 6) = (node 0x63 1).cabAddr ∧ flushes (node 0x63 1) ∧
      ({ node 0x63 1 with tx0 := slotOf 1 2 3 4 } : State).tx0.cnt ≠ 0 :=
  ⟨by decide, by decide, .inr (.inr (by decide)), by decide⟩

theorem test_witness_PollTurnWithoutFlush :
    ((5 : BitVec 6) ≠ 0 ∧ (5 : BitVec 6) = (node 0x61 5).cabAddr) ∧
      (flushes (node 0x61 5) ∧ (node 0x61 5).tx0.cnt = 0 ∧ (node 0x61 5).tx1.cnt = 0 ∧
        (node 0x61 5).cabType ≠ (node 0x61 5).cfg.dev.cabTypeSmart) ∧
      (flushes (node 0x63 5) ∧ (node 0x63 5).tx0.cnt = 0 ∧ (node 0x63 5).tx1.cnt = 0 ∧
        (node 0x63 5).cabType = (node 0x63 5).cfg.dev.cabTypeSmart) ∧
      (¬ flushes (node 0x64 5) ∧ (node 0x64 5).cabType = (node 0x64 5).cfg.dev.cabTypeAiu) ∧
      (¬ flushes (node 0x65 5) ∧ (node 0x65 5).cabType ≠ (node 0x65 5).cfg.dev.cabTypeAiu) := by
  unfold flushes; decide

theorem test_witness_AiuPollIsIdempotent :
    (node 0x64 16).cfg.wellFormed = true ∧ (16 : BitVec 6) ≠ 0 ∧ (16 : BitVec 6) = (node 0x64 16).cabAddr ∧
      (node 0x64 16).cabType = (node 0x64 16).cfg.dev.cabTypeAiu := by decide

theorem test_witness_KeyIsReportedOnce :
    (5 : BitVec 6) ≠ 0 ∧ (5 : BitVec 6) = (node 0x62 5).cabAddr ∧ flushes (node 0x62 5) ∧
      (node 0x62 5).cabType ≠ (node 0x62 5).cfg.dev.cabTypeSmart ∧ (node 0x62 5).tx0.cnt = 0 ∧
      (node 0x62 5).tx1.cnt = 0 := by
  unfold flushes; decide

theorem test_witness_FlushedFramesAreNotSentAgain :
    let s : BitVec 8 → State := fun k => { node k 3 with tx0 := slotOf 1 2 3 4, tx1 := slotOf 5 6 7 8 }
    (3 : BitVec 6) ≠ 0 ∧ (3 : BitVec 6) = (s 0x63).cabAddr ∧ flushes (s 0x61) ∧ flushes (s 0x62) ∧ flushes (s 0x63) ∧
      ((s 0x63).tx0.cnt ≠ 0 ∨ (s 0x63).tx1.cnt ≠ 0) ∧ (s 0x63).cabType = (s 0x63).cfg.dev.cabTypeSmart ∧
      (s 0x61).cabType ≠ (s 0x61).cfg.dev.cabTypeSmart := by
  unfold flushes; decide

/-- Bytes that differ in every bit no field names, for the D8, DA and D9 clauses. -/
theorem test_witness_ReplyIgnoresUnnamedBits :
    let r1 : Byte := 0xFF; let q1 : Byte := 0x3F; let r2 : Byte := 0xFF; let q2 : Byte := 0x3F
    r1 ≠ q1 ∧ r1.toNat / 16 % 4 = q1.toNat / 16 % 4 ∧ r1.toNat % 4 = q1.toNat % 4 ∧ r2.toNat % 64 = q2.toNat % 64 ∧
      r1.toNat % 64 = q1.toNat % 64 := by decide

theorem test_witness_CursorMoveRaisesDecodedPosition : State.reset.cfg.ib.cursorTable = [] := rfl

theorem test_witness_FastClockRateUpdatesOnChange :
    (BitVec.ofNat 8 ((0x40 : Byte).toNat % 64) = State.reset.fcRate) ∧
      (BitVec.ofNat 8 ((63 : Byte).toNat % 64) ≠ (busy .reset).fcRate ∧
        ((busy .reset).fcMode ≠ .none ∧ BitVec.ofNat 8 ((63 : Byte).toNat % 64) ≠ (0 : Byte))) ∧
      (BitVec.ofNat 8 ((1 : Byte).toNat % 64) ≠ State.reset.fcRate ∧
        ¬ (State.reset.fcMode ≠ .none ∧ BitVec.ofNat 8 ((1 : Byte).toNat % 64) ≠ (0 : Byte))) := by decide

theorem test_witness_AiuBitWriteSetsOneBit : (0 < 14 ∧ (0 : Fin 14).val = 0) ∧ 13 < 14 ∧ (13 : Fin 14).val = 13 := by decide

theorem test_witness_GenericAccessFollowsRegisterMap : 20 ≤ (20 : Byte).toNat ∧ (19 : Byte).toNat < 20 := by decide

theorem test_cfgDefault_wellFormed : cfgDefault.wellFormed = true := by decide

/-- The busy state is sound. -/
theorem test_busy_sound (x : Input) : Sound (busy x) where
  cfg := test_cfgDefault_wellFormed
  ua := by
    refine .inr ⟨?_, ?_, ?_⟩
    · show (2 : BitVec 4) < 5; decide
    · show (5 : BitVec 4) ≤ 11; decide
    · show (5 : BitVec 4) = upPacketLen cfgDefault.up 0xA2; decide
  tx0 := .inr ⟨rfl, by show (0x7E : Byte) = xor4 0x4F 0x32 0x01 0x02; decide⟩
  tx1 := .inl rfl
  slots := fun _ => rfl
  ib := by
    refine .inr ⟨?_, ?_, rfl, ?_, ?_⟩
    · show (1 : BitVec 4) < 9; decide
    · show (9 : BitVec 4) ≤ 9; decide
    · show isPoll 0xC0 = false; decide
    · show (9 : BitVec 4) = ibLen cfgDefault.ib .addressed 0xC0; decide
  ra := by
    refine .inr ⟨rfl, ?_, ?_, rfl⟩
    · show (1 : BitVec 3) ≤ 1; decide
    · show (1 : BitVec 3) < 3; decide
  buffers := ⟨⟨rfl, rfl⟩, ⟨rfl, rfl⟩, ⟨rfl, rfl⟩, ⟨rfl, rfl⟩, rfl, rfl⟩
  clock := ⟨by show (12 : Byte) ≤ 99; decide, by show (34 : Byte) ≤ 99; decide⟩

theorem test_witness_EveryStepKeepsSound :
    Sound (busy (.upByte 0x32)) ∧ step (busy (.upByte 0x32)) = .next (after (step (busy (.upByte 0x32)))) :=
  ⟨test_busy_sound _, rfl⟩

theorem test_witness_SoundStatesNeverStop : Sound (busy (.busByte 0x85 true true)) := test_busy_sound _

theorem test_witness_StepsAppendOutputsOnly :
    step (busy (.busByte 0x85 true true)) = .next (after (step (busy (.busByte 0x85 true true)))) := rfl

theorem test_witness_UpstreamSideIsIndependent :
    (busy (.upByte 0x32)).inputs = .upByte 0x32 :: [] ∧
      step (busy (.upByte 0x32)) = .next (after (step (busy (.upByte 0x32)))) := ⟨rfl, rfl⟩

theorem test_witness_BusMachinesShareNoState :
    ((busy (.busByte 0x85 false true)).inputs = .busByte 0x85 false true :: [] ∧
        step (busy (.busByte 0x85 false true)) = .next (after (step (busy (.busByte 0x85 false true))))) ∧
      ((busy (.busByte 0x85 true false)).inputs = .busByte 0x85 true false :: [] ∧
        step (busy (.busByte 0x85 true false)) = .next (after (step (busy (.busByte 0x85 true false))))) ∧
      ((busy (.busByte 0x85 true true)).inputs = .busByte 0x85 true true :: [] ∧
        step (busy (.busByte 0x85 true true)) = .next (after (step (busy (.busByte 0x85 true true))))) ∧
      ((busy (.busByte 0x85 false false)).inputs = .busByte 0x85 false false :: [] ∧
        step (busy (.busByte 0x85 false false)) = .next (after (step (busy (.busByte 0x85 false false))))) :=
  ⟨⟨rfl, rfl⟩, ⟨rfl, rfl⟩, ⟨rfl, rfl⟩, rfl, rfl⟩

theorem test_witness_BusMachinesCommute :
    pcFeed 0x85 (busy .reset) = .next (after (pcFeed 0x85 (busy .reset))) ∧
      raFeed 0x85 (after (pcFeed 0x85 (busy .reset))) = .next (after (raFeed 0x85 (after (pcFeed 0x85 (busy .reset))))) :=
  ⟨rfl, rfl⟩

theorem test_witness_UnknownIsEnteredByResetOnly :
    let s : State := { State.reset with inputs := [.upByte 0x80] }
    step s = .next (after (step s)) ∧ s.inputs.head? ≠ some .reset ∧ (after (step s)).cabState = .unknown :=
  ⟨rfl, by decide, rfl⟩

theorem test_witness_ClockModePersistsUntilReset :
    let s := busy (.busByte 0x85 true true)
    step s = .next (after (step s)) ∧ s.inputs.head? ≠ some .reset ∧ s.fcMode ≠ .none := ⟨rfl, by decide, by decide⟩

theorem test_witness_WireNeverWritesIdentity :
    let x : Input := .busByte 0x85 true true
    (busy x).inputs = x :: [] ∧ step (busy x) = .next (after (step (busy x))) ∧ x ≠ .reset ∧
      ∀ reg v, x ≠ .cfgWrite reg v :=
  ⟨rfl, rfl, by decide, fun _ _ h => by cases h⟩

theorem test_witness_BusTransmissionNeedsTurn :
    let s := busy (.busByte 0x85 true true)
    step s = .next (after (step s)) ∧ (after (step s)).busTx ≠ s.busTx := ⟨rfl, by decide⟩

theorem test_witness_UpstreamPacketIsDispatchedOnce :
    let s : State := { State.reset with inputs := [0xAE, 0x04, 0xD2, 0x00, 0x1D, 0x86].map Input.upByte ++ [.reset] }
    s.cfg.wellFormed = true ∧ s.uaCnt = 0 ∧
      (upPacketLen s.cfg.up 0xAE).toNat = [(0xAE : Byte), 0x04, 0xD2, 0x00, 0x1D, 0x86].length ∧
      s.inputs = [0xAE, 0x04, 0xD2, 0x00, 0x1D, 0x86].map Input.upByte ++ [.reset] := by decide

/-- A node in a broadcast, with the transactions `xs` presented. -/
def broadcastNode (xs : List Input) : State := { State.reset with cabState := .execBroadcastCmd, inputs := xs }

theorem test_broadcastNode_sound (xs : List Input) : Sound (broadcastNode xs) where
  cfg := test_cfgDefault_wellFormed
  ua := .inl rfl
  tx0 := .inl rfl
  tx1 := .inl rfl
  slots := fun h => absurd (show (0 : BitVec 3) = 5 from h) (by decide)
  ib := .inl rfl
  ra := .inl ⟨rfl, rfl⟩
  buffers := ⟨⟨rfl, rfl⟩, ⟨rfl, rfl⟩, ⟨rfl, rfl⟩, ⟨rfl, rfl⟩, rfl, rfl⟩
  clock := ⟨by show (0 : Byte) ≤ 99; decide, by show (0 : Byte) ≤ 99; decide⟩

/-- A time broadcast, routed to one machine and to both. -/
theorem test_witness_InboundCommandIsDispatchedOnce : ∀ both : Bool,
    let p : List Byte := [0xC1, 0xE0, 0xF1, 0xF2, 0xFA, 0xF3, 0xF4, 0xD8, 0xCD]
    let s := broadcastNode (p.map (fun b => Input.busByte b true both) ++ [.reset])
    s.cfg.wellFormed = true ∧ s.ibCnt = 0 ∧ executing s.cabState = true ∧ (∀ b ∈ p, isPoll b = false) ∧
      (ibLen s.cfg.ib (ibModeOf s.cabState) 0xC1).toNat = p.length ∧ (both = true → Sound s) ∧
      s.inputs = p.map (fun b => Input.busByte b true both) ++ [.reset] :=
  fun _ => ⟨test_cfgDefault_wellFormed, rfl, rfl, by decide, rfl, fun _ => test_broadcastNode_sound _, rfl⟩

/-- A reply whose data are a poll byte and lead bytes, routed to one machine and to both. -/
theorem test_witness_ReplyIsAssembledWhateverItsBytes : ∀ both : Bool,
    let p : List Byte := [0xD9, 0x85, 0xD8, 0xDA]
    let s := broadcastNode (p.map (fun b => Input.busByte b both true) ++ [.reset])
    s.cfg.wellFormed = true ∧ s.raActive = false ∧ raSizeOf 0xD9 = some 4 ∧ (4 : BitVec 3).toNat = p.length ∧
      (both = true → Sound s) ∧ s.inputs = p.map (fun b => Input.busByte b both true) ++ [.reset] :=
  fun _ => ⟨test_cfgDefault_wellFormed, rfl, rfl, rfl, fun _ => test_broadcastNode_sound _, rfl⟩

theorem test_witness_ResetStateIsSound : cfgDefault.wellFormed = true := test_cfgDefault_wellFormed

/-- A witness for each clause: an assembled packet, a single and an assembled unit of the poll/command machine, a
single and an assembled unit of the reply assembler, a byte routed to both, a host access, a reset. -/
theorem test_witness_StepRunsDecodedUnit :
    cfgDefault.wellFormed = true ∧
      (∃ w u, upFetch 0xAA State.reset = .complete w u ∧ decode u.cfg w = .ok (.upFwVer 0xAA)) ∧
      (∃ w u, pcFetch 0x85 (busy .reset) = .single w u ∧ decode u.cfg w = .ok (.poll 5)) ∧
      (∃ w u, pcFetch 0xD2 { node 0x63 5 with cabState := .execMyCmd } = .complete w u ∧
        decode u.cfg w = .ok (.ibCabTypeQuery 0xD2)) ∧
      (∃ w u, raFetch 0xDB State.reset = .single w u ∧ decode u.cfg w = .ok (.replyNone 0xDB)) ∧
      (∃ w u, raFetch 0x15 { busy .reset with raCnt := 2 } = .complete w u ∧ decode u.cfg w = .ok (.replyD8 0 0x15)) ∧
      (∃ u, pcFeed 0x85 (busy .reset) = .next u) ∧
      decode cfgDefault (.hostRead 20) = .ok (.cfgRead 20) ∧
      decode cfgDefault (.hostWrite 19 3) = .ok (.cfgCabState (.write 3)) :=
  ⟨by decide, ⟨_, _, rfl, rfl⟩, ⟨_, _, rfl, rfl⟩, ⟨_, _, rfl, rfl⟩, ⟨_, _, rfl, rfl⟩, ⟨_, _, rfl, rfl⟩, ⟨_, rfl⟩, rfl, rfl⟩

theorem test_witness_IdleStepChangesNothing : (node 0x61 5).cfg.wellFormed = true ∧ (node 0x61 5).inputs = [] := by
  decide

theorem test_witness_IllFormedConfigurationIsRefused :
    ({ State.reset with cfg := { cfgDefault with rsp := { rspDefault with cvRange := 0x31 } } } :
      State).cfg.wellFormed = false := by decide

theorem test_witness_WellFormedTablesMeetRule :
    cfgDefault.wellFormed = true ∧ upInRange cfgDefault.up 0xAE = true ∧
      (upClassOf cfgDefault.up 0xAE).formatLen = some 6 ∧ isPoll 0x85 = true ∧
      (addrClassOf cfgDefault.ib 0xC0).frameLen = some 9 ∧ (bcastClassOf cfgDefault.ib 0xD4).frameLen = some 2 ∧
      (upClassOf cfgDefault.up 0xAE).cvBase = some 0x00 := by decide

theorem test_witness_DecodeOfEncodeIsIdentity :
    cfgDefault.wellFormed = true ∧ Instr.wf cfgDefault (.upOpsAcc 0xAF 0xFFFF 0xFFFF 0xFF) = true ∧
      Instr.wf cfgDefault (.ibFcTime 0xC1 [0xE0, 0x31, 0x32, 0x3A, 0x33, 0x34, 0x50, 0x4D]) = true ∧
      Instr.wf cfgDefault (.poll 63) = true ∧ Instr.wf cfgDefault (.cfgWrite 255 0xFFFF) = true := by decide

theorem test_witness_DecodedPacketReencodes :
    cfgDefault.wellFormed = true ∧ decode cfgDefault (.up [0xAF, 0xFF, 0xFF, 0x12, 0x34, 0x56]) =
      .ok (.upOpsAcc 0xAF 0xFFFF 0x1234 0x56) := by decide

end Sys2Proof.Tests
end

section
/-! What one byte can do at each port machine and what its units write, in the form the proofs about every step use. -/

namespace Sys2Proof.Machine

/-! ### What each feed can answer -/

/-- An upstream byte is stored, or completes a packet whose unit runs before the assembler is cleared. -/
theorem upFeed_cases {b : Byte} {s t : State} (h : upFeed b s = .next t) :
    s.uaCnt.toNat < uaBufSize ∧
      ((s.uaCnt + 1 ≠ (uaLatch b s).uaLen ∧ t = uaStore b (uaLatch b s)) ∨
        ∃ p v, runUnit (.up p) (uaStore b (uaLatch b s)) = .next v ∧ t = uaClear v) := by
  unfold upFeed at h
  rcases upFetch_cases b s with ⟨_, e⟩ | ⟨hc, hl, e⟩ | ⟨hc, _, e⟩ <;> rw [e] at h
  · cases h
  · cases h; exact ⟨hc, .inl ⟨hl, rfl⟩⟩
  · obtain ⟨v, hv, ht⟩ := andThen_next h
    cases ht; exact ⟨hc, .inr ⟨_, v, hv, rfl⟩⟩

/-- A byte at the poll/command machine is a unit by itself, or is stored, or completes a command whose unit runs
before the buffer is cleared. -/
theorem pcFeed_cases {b : Byte} {s t : State} (h : pcFeed b s = .next t) :
    runUnit (.pc s.cabState [b]) s = .next t ∨
      (pcSingle b s = false ∧ s.ibCnt.toNat < ibBufSize ∧
        ((s.ibCnt + 1 ≠ (ibLatch b s).ibLen ∧ t = ibStore b (ibLatch b s)) ∨
          ∃ p v, runUnit (.pc s.cabState p) (ibStore b (ibLatch b s)) = .next v ∧ t = ibClear v)) := by
  unfold pcFeed at h
  rcases pcFetch_cases b s with ⟨_, e⟩ | ⟨_, _, e⟩ | ⟨hp, hc, hl, e⟩ | ⟨hp, hc, _, e⟩ <;> rw [e] at h
  · exact .inl h
  · cases h
  · cases h; exact .inr ⟨hp, hc, .inl ⟨hl, rfl⟩⟩
  · obtain ⟨v, hv, ht⟩ := andThen_next h
    cases ht; exact .inr ⟨hp, hc, .inr ⟨_, v, hv, rfl⟩⟩

/-- While a reply is assembled a byte is stored, or completes the reply, whose unit runs before the assembler is
cleared. -/
theorem raTake_next {b : Byte} {s t : State} (h : runFetch raClear (raTake b s) = .next t) :
    s.raCnt.toNat < raBufSize ∧
      ((s.raCnt + 1 ≠ s.raSize ∧ t = raStore b s) ∨
        ∃ p v, runUnit (.ra p) (raStore b s) = .next v ∧ t = raClear v) := by
  rcases raTake_cases b s with ⟨_, e⟩ | ⟨hc, hl, e⟩ | ⟨hc, _, e⟩ <;> rw [e] at h
  · cases h
  · cases h; exact ⟨hc, .inl ⟨hl, rfl⟩⟩
  · obtain ⟨v, hv, ht⟩ := andThen_next h
    cases ht; exact ⟨hc, .inr ⟨_, v, hv, rfl⟩⟩

/-- A byte at the reply assembler is taken into the reply in progress, or starts one, or is a unit by itself. -/
theorem raFeed_cases {b : Byte} {s t : State} (h : raFeed b s = .next t) :
    (s.raActive = true ∧ runFetch raClear (raTake b s) = .next t) ∨
      (∃ n, raSizeOf b = some n ∧ runFetch raClear (raTake b (raStart n s)) = .next t) ∨
      runUnit (.ra [b]) s = .next t := by
  unfold raFeed at h
  rcases raFetch_cases b s with ⟨ha, e⟩ | ⟨_, n, hn, e⟩ | ⟨_, _, e⟩ <;> rw [e] at h
  · exact .inl ⟨ha, h⟩
  · exact .inr (.inl ⟨n, hn, h⟩)
  · exact .inr (.inr h)

/-- Everything a unit of the poll/command machine can do to the state. -/
theorem pcUnit_cases {m : CabState} {p : List Byte} {s t : State} (h : runUnit (.pc m p) s = .next t) :
    t = s ∨ (∃ a, t = pollTurn a s) ∨ (∃ e, t = emitEvt e s) ∨ (∃ q, t = emitBus q s) ∨
      (∃ opc text, t = fcTime opc text s) ∨ (∃ r, t = fcRateCmd r s) := by
  rcases runUnit_next h with ⟨i, hd, he⟩ | ⟨_, rfl⟩
  · rcases decode_pc_cases hd with ⟨b, _, _, rfl⟩ | ⟨_, hi | ⟨f, hi⟩ | ⟨_, hi⟩ | ⟨opc, text, hi⟩ | ⟨r, hi⟩⟩
    · cases he; exact .inr (.inl ⟨_, rfl⟩)
    all_goals rw [hi] at he; cases he
    · exact .inl rfl
    · exact .inr (.inr (.inl ⟨_, rfl⟩))
    · exact .inr (.inr (.inr (.inl ⟨_, rfl⟩)))
    · exact .inr (.inr (.inr (.inr (.inl ⟨_, _, rfl⟩))))
    · exact .inr (.inr (.inr (.inr (.inr ⟨_, rfl⟩))))
  · exact .inl rfl

/-- What an upstream packet's unit does to the state. -/
theorem upPacket_cases {p : List Byte} {s t : State} (h : runUnit (.up p) s = .next t) :
    t = s ∨ (∃ q, t = emitUp q s) ∨
      (∃ g0 g1 g2 g3 imm, t = { stage1 g0 g1 g2 g3 s with upTx := withOk imm s }) ∨
      (∃ g0 g1 g2 g3 h0 h1 h2 h3 imm, t = { stage2 g0 g1 g2 g3 h0 h1 h2 h3 s with upTx := withOk imm s }) := by
  rcases runUnit_next h with ⟨i, hd, he⟩ | ⟨_, rfl⟩
  · exact .inr (upUnit_cases (decode_up_unit hd) he)
  · exact .inl rfl

/-- What a poll byte writes: it empties the inbound buffer, sets `cab_state`, and may send and empty the slots or
report the key (rules R151 to R155). -/
theorem pollTurn_writes (a : BitVec 6) (s : State) :
    pollTurn a s =
      { s with
        ibCnt := 0
        cabState := (pollTurn a s).cabState
        tx0 := { s.tx0 with cnt := (pollTurn a s).tx0.cnt }
        tx1 := { s.tx1 with cnt := (pollTurn a s).tx1.cnt }
        key := (pollTurn a s).key
        busTx := (pollTurn a s).busTx } := by
  rcases pollTurn_cases a s with ⟨_, e⟩ | ⟨_, _, e⟩ | ⟨_, _, e⟩ <;> rw [e]
  rw [pollReact_frame]

end Sys2Proof.Machine
end

section
/-! The invariant `Sound` holds at reset and every step keeps it: each part of it is kept by the machine that writes it,
and by the others through their frames. -/

namespace Sys2Proof.Machine

/-! ### The lengths that are latched -/

/-- The length latched for an upstream packet is from 1 to 11 (rules R1, R111). -/
theorem upPacketLen_bounds {c : Cfg} (hw : c.wellFormed = true) (b : Byte) :
    1 ≤ upPacketLen c.up b ∧ upPacketLen c.up b ≤ 11 := by
  have hle := Laws.upLen_le hw b
  unfold upPacketLen
  split
  · decide
  · next hne => constructor <;> bv_omega

/-- The length of an inbound command is at most 9 (rule R1 (c)). -/
theorem ibLen_le {c : Cfg} (hw : c.wellFormed = true) (m : IbMode) (b : Byte) : ibLen c.ib m b ≤ 9 := by
  have len_le : ∀ {l f}, ibEntryOk b l f = true → l ≤ 9 := by
    intro l f h
    simp only [ibEntryOk, Bool.and_eq_true, decide_eq_true_eq] at h
    exact h.1.1
  cases m <;> simp only [ibLen] <;> split
  · next e he => exact len_le (addrEntry_ok hw he)
  · decide
  · next e he => exact len_le (bcastEntry_ok hw he)
  · decide

theorem uaLatch_uaLen_first (b : Byte) {s : State} (h : s.uaCnt = 0) :
    (uaLatch b s).uaLen = upPacketLen s.cfg.up b := by
  unfold uaLatch; rw [if_pos h]

theorem uaLatch_uaLen_later (b : Byte) {s : State} (h : s.uaCnt ≠ 0) : (uaLatch b s).uaLen = s.uaLen := by
  unfold uaLatch; rw [if_neg h]

theorem ibLatch_ibLen_first (b : Byte) {s : State} (h : s.ibCnt = 0) :
    (ibLatch b s).ibLen = ibLen s.cfg.ib (ibModeOf s.cabState) b := by
  unfold ibLatch; rw [if_pos h]

theorem ibLatch_ibLen_later (b : Byte) {s : State} (h : s.ibCnt ≠ 0) : (ibLatch b s).ibLen = s.ibLen := by
  unfold ibLatch; rw [if_neg h]

/-! ### The byte at index 0, which selects the length -/

theorem memRead_write_first (m : Memory) {n : Nat} {cnt : BitVec n} (h : cnt = 0) (v : Byte) :
    memRead (memWrite m cnt.toNat v) 0 = v := by simp [memRead_write, h]

theorem memRead_write_later (m : Memory) {n : Nat} {cnt : BitVec n} (h : cnt ≠ 0) (v : Byte) :
    memRead (memWrite m cnt.toNat v) 0 = memRead m 0 := by
  have h0 : 0 ≠ cnt.toNat := fun e => h (BitVec.eq_of_toNat_eq (by simp [← e]))
  rw [memRead_write, if_neg h0]

/-- The opcode of an inbound command is stored as received (rule R16). -/
theorem storedByte_opcode {c : Cfg} (hw : c.wellFormed = true) {n : Nat} {cnt : BitVec n} (h : cnt = 0) (b : Byte) :
    storedByte c.ib cnt.toNat b = b := by
  have hpos := asciiFrom_pos hw
  simp [storedByte, h, show c.ib.asciiFrom ≠ 0 by omega]

/-! ### The parts of the invariant `Sound`, one per port machine -/

/-- A buffer in canonical form and inside its size (rule R40). -/
def bufferOk (size : Nat) (m : Memory) : Prop := Memory.wf m = true ∧ memBelow size m = true

theorem bufferOk_write {size : Nat} {m : Memory} (h : bufferOk size m) {a : Nat} (ha : a < size) (v : Byte) :
    bufferOk size (memWrite m a v) := ⟨memWrite_wf m a v h.1, memWrite_below size m a v ha h.2⟩

/-- The part of `Sound` about the upstream assembler. -/
def uaPart (s : State) : Prop := uaSound s ∧ bufferOk uaBufSize s.uaBuf

/-- The part of `Sound` about one staging slot. -/
def slotPart (t : TxSlot) : Prop := slotSound t ∧ bufferOk frameSize t.buf

/-- The part of `Sound` about the staging slots. -/
def slotsPart (s : State) : Prop := slotPart s.tx0 ∧ slotPart s.tx1 ∧ slotsOrdered s

/-- The part of `Sound` about the inbound buffer. -/
def ibPart (s : State) : Prop := ibSound s ∧ bufferOk ibBufSize s.ibBuf

/-- The part of `Sound` about the reply assembler. -/
def raPart (s : State) : Prop := raSound s ∧ bufferOk raBufSize s.raBuf

theorem sound_iff (s : State) :
    Sound s ↔ s.cfg.wellFormed = true ∧ uaPart s ∧ slotsPart s ∧ ibPart s ∧ raPart s ∧ clockSound s := by
  constructor
  · rintro ⟨hcfg, hua, h0, h1, hord, hib, hra, ⟨bua, b0, b1, bib, bra⟩, hclock⟩
    exact ⟨hcfg, ⟨hua, bua⟩, ⟨⟨h0, b0⟩, ⟨h1, b1⟩, hord⟩, ⟨hib, bib⟩, ⟨hra, bra⟩, hclock⟩
  · rintro ⟨hcfg, ⟨hua, bua⟩, ⟨⟨h0, b0⟩, ⟨h1, b1⟩, hord⟩, ⟨hib, bib⟩, ⟨hra, bra⟩, hclock⟩
    exact ⟨hcfg, hua, h0, h1, hord, hib, hra, ⟨bua, b0, b1, bib, bra⟩, hclock⟩

/-- `Sound` speaks of no transaction still presented. -/
theorem sound_withInputs {s : State} (h : Sound s) (xs : List Input) : Sound { s with inputs := xs } :=
  (sound_iff _).2 ((sound_iff s).1 h)

/-! ### The staging slots -/

theorem slotPart_fillSlot {t : TxSlot} (h : slotPart t) (g0 g1 g2 g3 : Byte) : slotPart (fillSlot t g0 g1 g2 g3) :=
  ⟨holdsFrame_sound (fillSlot_holds t g0 g1 g2 g3), fillSlot_wf t _ _ _ _ h.2.1, fillSlot_below t _ _ _ _ h.2.2⟩

theorem slotPart_empty {t : TxSlot} (h : slotPart t) : slotPart { t with cnt := 0 } := ⟨.inl rfl, h.2⟩

theorem slotsPart_stage1 {s : State} (h : slotsPart s) (g0 g1 g2 g3 : Byte) : slotsPart (stage1 g0 g1 g2 g3 s) :=
  ⟨slotPart_fillSlot h.1 g0 g1 g2 g3, slotPart_empty h.2.1, fun _ => rfl⟩

theorem slotsPart_stage2 {s : State} (h : slotsPart s) (g0 g1 g2 g3 h0 h1 h2 h3 : Byte) :
    slotsPart (stage2 g0 g1 g2 g3 h0 h1 h2 h3 s) :=
  ⟨slotPart_fillSlot h.1 g0 g1 g2 g3, slotPart_fillSlot h.2.1 h0 h1 h2 h3, fun _ => rfl⟩

theorem upPacket_slotsPart {p : List Byte} {s t : State} (h : runUnit (.up p) s = .next t) (hs : slotsPart s) :
    slotsPart t := by
  rcases upPacket_cases h with rfl | ⟨q, rfl⟩ | ⟨g0, g1, g2, g3, imm, rfl⟩ |
    ⟨g0, g1, g2, g3, h0, h1, h2, h3, imm, rfl⟩
  · exact hs
  · exact hs
  · exact slotsPart_stage1 hs g0 g1 g2 g3
  · exact slotsPart_stage2 hs g0 g1 g2 g3 h0 h1 h2 h3

theorem upFeed_slotsPart {b : Byte} {s t : State} (h : upFeed b s = .next t) (hs : slotsPart s) : slotsPart t := by
  have hstored : slotsPart (uaStore b (uaLatch b s)) := by rw [uaStore_eq]; exact hs
  rcases upFeed_cases h with ⟨_, ⟨_, rfl⟩ | ⟨p, v, hv, rfl⟩⟩
  · exact hstored
  · have hunit : slotsPart v := upPacket_slotsPart hv hstored
    exact hunit

/-- A poll turn leaves the slots or empties both (rule R153). -/
theorem pollTurn_slotsPart (a : BitVec 6) {s : State} (hs : slotsPart s) : slotsPart (pollTurn a s) := by
  rcases pollTurn_cases a s with ⟨_, e⟩ | ⟨_, _, e⟩ | ⟨_, _, e⟩ <;> rw [e]
  · exact hs
  · exact hs
  · unfold slotsPart slotsOrdered
    rcases pollReact_slots { s with ibCnt := 0, cabState := .execMyCmd } with ⟨e0, e1⟩ | ⟨e0, e1⟩ <;> rw [e0, e1]
    · exact hs
    · exact ⟨slotPart_empty hs.1, slotPart_empty hs.2.1, fun h => by cases h⟩

theorem pcUnit_slotsPart {m : CabState} {p : List Byte} {s t : State} (h : runUnit (.pc m p) s = .next t)
    (hs : slotsPart s) : slotsPart t := by
  rcases pcUnit_cases h with rfl | ⟨a, rfl⟩ | ⟨e, rfl⟩ | ⟨q, rfl⟩ | ⟨opc, text, rfl⟩ | ⟨r, rfl⟩
  · exact hs
  · exact pollTurn_slotsPart a hs
  · exact hs
  · exact hs
  · rw [fcTime_frame]; exact hs
  · rw [fcRateCmd_frame]; exact hs

theorem pcFeed_slotsPart {b : Byte} {s t : State} (h : pcFeed b s = .next t) (hs : slotsPart s) : slotsPart t := by
  have hstored : slotsPart (ibStore b (ibLatch b s)) := by rw [ibStore_eq]; exact hs
  rcases pcFeed_cases h with h | ⟨_, _, ⟨_, rfl⟩ | ⟨p, v, hv, rfl⟩⟩
  · exact pcUnit_slotsPart h hs
  · exact hstored
  · have hunit : slotsPart v := pcUnit_slotsPart hv hstored
    exact hunit

/-! ### The upstream assembler -/

/-- An upstream packet's unit leaves the assembler's buffer to the clearing that follows it. -/
theorem upPacket_uaBuf {p : List Byte} {s t : State} (h : runUnit (.up p) s = .next t) : t.uaBuf = s.uaBuf := by
  rcases upPacket_cases h with rfl | ⟨q, rfl⟩ | ⟨g0, g1, g2, g3, imm, rfl⟩ |
    ⟨g0, g1, g2, g3, h0, h1, h2, h3, imm, rfl⟩ <;> rfl

/-- A stored byte that does not complete the packet keeps the assembler's invariant: the first byte latches its
table length, a later one leaves the opcode in place. -/
theorem uaStore_uaSound {b : Byte} {s : State} (hw : s.cfg.wellFormed = true) (hs : uaSound s)
    (hl : s.uaCnt + 1 ≠ (uaLatch b s).uaLen) : uaSound (uaStore b (uaLatch b s)) := by
  obtain ⟨hpos, hle⟩ := upPacketLen_bounds hw b
  rw [uaStore_eq]
  refine .inr ?_
  by_cases hc : s.uaCnt = 0
  · simp only [uaLatch_uaLen_first b hc, memRead_write_first _ hc] at hl ⊢
    exact ⟨by bv_omega, hle, trivial⟩
  · obtain ⟨hlt, hle', hlen⟩ := hs.resolve_left hc
    simp only [uaLatch_uaLen_later b hc, memRead_write_later _ hc] at hl ⊢
    exact ⟨by bv_omega, hle', hlen⟩

theorem upFeed_uaPart {b : Byte} {s t : State} (h : upFeed b s = .next t) (hw : s.cfg.wellFormed = true)
    (hs : uaPart s) : uaPart t := by
  obtain ⟨hc, h⟩ := upFeed_cases h
  have hbuf : bufferOk uaBufSize (uaStore b (uaLatch b s)).uaBuf := by
    rw [uaStore_eq]; exact bufferOk_write hs.2 hc b
  rcases h with ⟨hl, rfl⟩ | ⟨p, v, hv, rfl⟩
  · exact ⟨uaStore_uaSound hw hs.1 hl, hbuf⟩
  · exact ⟨.inl rfl, by rw [uaClear_uaBuf, upPacket_uaBuf hv]; exact hbuf⟩

/-! ### The inbound buffer -/

/-- A unit of the poll/command machine leaves the buffer's bytes. -/
theorem pcUnit_ibBuf {m : CabState} {p : List Byte} {s t : State} (h : runUnit (.pc m p) s = .next t) :
    t.ibBuf = s.ibBuf := by
  rcases pcUnit_cases h with rfl | ⟨a, rfl⟩ | ⟨e, rfl⟩ | ⟨q, rfl⟩ | ⟨opc, text, rfl⟩ | ⟨r, rfl⟩
  · rfl
  · rw [pollTurn_writes]
  · rfl
  · rfl
  · rw [fcTime_frame]
  · rw [fcRateCmd_frame]

/-- A unit of the poll/command machine empties the buffer (a poll byte, rule R151) or leaves it and the state it is
read in. -/
theorem pcUnit_ibSound {m : CabState} {p : List Byte} {s t : State} (h : runUnit (.pc m p) s = .next t)
    (hs : ibSound s) : ibSound t := by
  rcases pcUnit_cases h with rfl | ⟨a, rfl⟩ | ⟨e, rfl⟩ | ⟨q, rfl⟩ | ⟨opc, text, rfl⟩ | ⟨r, rfl⟩
  · exact hs
  · rw [pollTurn_writes]; exact .inl rfl
  · exact hs
  · exact hs
  · rw [fcTime_frame]; exact hs
  · rw [fcRateCmd_frame]; exact hs

/-- A byte that is no unit by itself is an inbound byte in a state that accepts commands; as the first of a command
it has a length (rules R156, R158, R159). -/
theorem pcSingle_false {b : Byte} {s : State} (h : pcSingle b s = false) :
    isPoll b = false ∧ executing s.cabState = true ∧
      (s.ibCnt = 0 → ibLen s.cfg.ib (ibModeOf s.cabState) b ≠ 0) := by
  simp only [pcSingle, Bool.or_eq_false_iff, Bool.not_eq_false', Bool.and_eq_false_iff, beq_eq_false_iff_ne] at h
  obtain ⟨⟨hpoll, hexec⟩, hlen⟩ := h
  exact ⟨hpoll, hexec, fun hc => hlen.resolve_left (not_not.2 hc)⟩

/-- A stored byte that does not complete the command keeps the buffer's invariant. -/
theorem ibStore_ibSound {b : Byte} {s : State} (hw : s.cfg.wellFormed = true) (hs : ibSound s)
    (hp : pcSingle b s = false) (hl : s.ibCnt + 1 ≠ (ibLatch b s).ibLen) : ibSound (ibStore b (ibLatch b s)) := by
  obtain ⟨hpoll, hexec, hpos⟩ := pcSingle_false hp
  have hle := ibLen_le hw (ibModeOf s.cabState) b
  rw [ibStore_eq]
  refine .inr ?_
  by_cases hc : s.ibCnt = 0
  · have hne := hpos hc
    simp only [ibLatch_ibLen_first b hc, memRead_write_first _ hc, storedByte_opcode hw hc] at hl ⊢
    exact ⟨by bv_omega, hle, hexec, hpoll, trivial⟩
  · obtain ⟨hlt, hle', _, hpoll', hlen⟩ := hs.resolve_left hc
    simp only [ibLatch_ibLen_later b hc, memRead_write_later _ hc] at hl ⊢
    exact ⟨by bv_omega, hle', hexec, hpoll', hlen⟩

theorem pcFeed_ibPart {b : Byte} {s t : State} (h : pcFeed b s = .next t) (hw : s.cfg.wellFormed = true)
    (hs : ibPart s) : ibPart t := by
  rcases pcFeed_cases h with h | ⟨hp, hc, h⟩
  · exact ⟨pcUnit_ibSound h hs.1, by rw [pcUnit_ibBuf h]; exact hs.2⟩
  · have hbuf : bufferOk ibBufSize (ibStore b (ibLatch b s)).ibBuf := by
      rw [ibStore_eq]; exact bufferOk_write hs.2 hc _
    rcases h with ⟨hl, rfl⟩ | ⟨p, v, hv, rfl⟩
    · exact ⟨ibStore_ibSound hw hs.1 hp hl, hbuf⟩
    · exact ⟨.inl rfl, by rw [ibClear_ibBuf, pcUnit_ibBuf hv]; exact hbuf⟩

/-! ### The fast clock -/

theorem pcUnit_clockSound {m : CabState} {p : List Byte} {s t : State} (h : runUnit (.pc m p) s = .next t)
    (hs : clockSound s) : clockSound t := by
  rcases pcUnit_cases h with rfl | ⟨a, rfl⟩ | ⟨e, rfl⟩ | ⟨q, rfl⟩ | ⟨opc, text, rfl⟩ | ⟨r, rfl⟩
  · exact hs
  · rw [pollTurn_writes]; exact hs
  · exact hs
  · exact hs
  · rcases fcTime_cases opc text s with ⟨_, e⟩ | ⟨_, e⟩ <;> rw [e] <;> exact ⟨dec2_le _ _, dec2_le _ _⟩
  · rw [fcRateCmd_frame]; exact hs

theorem pcFeed_clockSound {b : Byte} {s t : State} (h : pcFeed b s = .next t) (hs : clockSound s) :
    clockSound t := by
  have hstored : clockSound (ibStore b (ibLatch b s)) := by rw [ibStore_eq]; exact hs
  rcases pcFeed_cases h with h | ⟨_, _, ⟨_, rfl⟩ | ⟨p, v, hv, rfl⟩⟩
  · exact pcUnit_clockSound h hs
  · exact hstored
  · have hunit : clockSound v := pcUnit_clockSound hv hstored
    exact hunit

/-! ### The reply assembler -/

/-- A byte taken into a reply keeps the assembler's invariant, if the byte at index 0 is then the lead byte of the
declared size: the lead byte just written, or the one already there. -/
theorem raTake_raPart {b : Byte} {s t : State} (h : runFetch raClear (raTake b s) = .next t)
    (hact : s.raActive = true) (hlt : s.raCnt < s.raSize)
    (hlead : raSizeOf (memRead (memWrite s.raBuf s.raCnt.toNat b) 0) = some s.raSize)
    (hbuf : bufferOk raBufSize s.raBuf) : raPart t := by
  obtain ⟨hc, h⟩ := raTake_next h
  have hbuf' : bufferOk raBufSize (memWrite s.raBuf s.raCnt.toNat b) := bufferOk_write hbuf hc b
  rcases h with ⟨hl, rfl⟩ | ⟨p, v, hv, rfl⟩
  · refine ⟨.inr ⟨hact, ?_, ?_, hlead⟩, hbuf'⟩ <;> rw [raStore_raCnt]
    · bv_omega
    · rw [raStore_raSize]; bv_omega
  · refine ⟨.inl ⟨rfl, rfl⟩, ?_⟩
    rcases raUnit_cases hv with rfl | ⟨q, rfl⟩ <;> exact hbuf'

theorem raFeed_raPart {b : Byte} {s t : State} (h : raFeed b s = .next t) (hs : raPart s) : raPart t := by
  obtain ⟨hsound, hbuf⟩ := hs
  rcases raFeed_cases h with ⟨ha, h⟩ | ⟨n, hn, h⟩ | h
  · rcases hsound with ⟨hn, _⟩ | ⟨_, hpos, hlt, hlead⟩
    · rw [ha] at hn; cases hn
    · have hc : s.raCnt ≠ 0 := by bv_omega
      exact raTake_raPart h ha hlt (by rw [memRead_write_later _ hc]; exact hlead) hbuf
  · have hpos : 0 < n := by rcases raSizeOf_some hn with ⟨_, rfl⟩ | ⟨_, rfl⟩ | ⟨_, rfl⟩ <;> decide
    exact raTake_raPart h rfl hpos (by rw [memRead_write_first _ (raStart_raCnt s n)]; exact hn) hbuf
  · rcases raUnit_cases h with rfl | ⟨q, rfl⟩ <;> exact ⟨hsound, hbuf⟩

/-! ### Every transaction keeps `Sound` -/

theorem upFeed_sound {b : Byte} {s t : State} (h : upFeed b s = .next t) (hs : Sound s) : Sound t := by
  obtain ⟨hw, hua, hslots, hib, hra, hclock⟩ := (sound_iff s).1 hs
  have hua' := upFeed_uaPart h hw hua
  have hslots' := upFeed_slotsPart h hslots
  have hf : t = _ := upFeed_frame h
  refine (sound_iff t).2 ⟨?_, hua', hslots', ?_, ?_, ?_⟩ <;> rw [hf] <;> assumption

theorem pcFeed_sound {b : Byte} {s t : State} (h : pcFeed b s = .next t) (hs : Sound s) : Sound t := by
  obtain ⟨hw, hua, hslots, hib, hra, hclock⟩ := (sound_iff s).1 hs
  have hf : t = _ := pcFeed_frame h
  refine (sound_iff t).2 ⟨?_, ?_, pcFeed_slotsPart h hslots, pcFeed_ibPart h hw hib, ?_, pcFeed_clockSound h hclock⟩ <;>
    rw [hf] <;> assumption

theorem raFeed_sound {b : Byte} {s t : State} (h : raFeed b s = .next t) (hs : Sound s) : Sound t := by
  obtain ⟨hw, hua, hslots, hib, hra, hclock⟩ := (sound_iff s).1 hs
  have hf : t = _ := raFeed_frame h
  refine (sound_iff t).2 ⟨?_, ?_, ?_, ?_, raFeed_raPart h hra, ?_⟩ <;> rw [hf] <;> assumption

theorem hostAccess_sound {s : State} (reg : Byte) (a : HostAccess) (hs : Sound s) : Sound (hostAccess reg a s) := by
  have hf : hostAccess reg a s = _ := hostAccess_frame s reg a
  rw [hf]
  exact (sound_iff _).2 ((sound_iff s).1 hs)

theorem resetOf_sound {c : Cfg} (hw : c.wellFormed = true) : Sound (State.resetOf c) where
  cfg := hw
  ua := .inl rfl
  tx0 := .inl rfl
  tx1 := .inl rfl
  slots := fun h => by cases h
  ib := .inl rfl
  ra := .inl ⟨rfl, rfl⟩
  buffers := ⟨⟨rfl, rfl⟩, ⟨rfl, rfl⟩, ⟨rfl, rfl⟩, ⟨rfl, rfl⟩, rfl, rfl⟩
  clock := ⟨Nat.zero_le _, Nat.zero_le _⟩

theorem resetState_sound {s : State} (hw : s.cfg.wellFormed = true) : Sound (resetState s) :=
  (sound_iff _).2 ((sound_iff (State.resetOf s.cfg)).1 (resetOf_sound hw))

/-- Settles O40. -/
theorem resetStateIsSound : Obligations.ResetStateIsSound :=
  ⟨fun _ hw => resetOf_sound hw, resetOf_sound (by decide)⟩

/-- Settles O41, one case per kind of transaction: each port machine keeps its own part of the invariant and, by its
frame, the parts of the others. -/
theorem everyStepKeepsSound : Obligations.EveryStepKeepsSound := by
  intro s t hs h
  obtain ⟨hw, hstep⟩ := step_cases h
  cases hstep with
  | idle _ ht => rw [ht]; exact hs
  | up b rest _ hup => exact upFeed_sound hup (sound_withInputs hs rest)
  | bus b p r rest u _ hpc hra =>
    have hu : Sound u := by
      cases p with
      | false => cases hpc; exact sound_withInputs hs rest
      | true => exact pcFeed_sound hpc (sound_withInputs hs rest)
    cases r with
    | false => cases hra; exact hu
    | true => exact raFeed_sound hra hu
  | read reg rest _ ht => rw [ht]; exact hostAccess_sound reg .read (sound_withInputs hs rest)
  | write reg v rest _ ht => rw [ht]; exact hostAccess_sound reg (.write v) (sound_withInputs hs rest)
  | reset rest _ ht => rw [ht]; exact resetState_sound hw

end Sys2Proof.Machine
end

section
/-! What every step does to the outputs, the clock mode and the key. -/

namespace Sys2Proof.Machine

/-! ### What a step appends to the outputs -/

theorem extendsLog_refl {α : Type} (a : List α) : extendsLog a a := ⟨[], (List.append_nil a).symm⟩

theorem extendsLog_append {α : Type} (a c : List α) : extendsLog a (a ++ c) := ⟨c, rfl⟩

theorem extendsLog_trans {α : Type} {a b c : List α} : extendsLog a b → extendsLog b c → extendsLog a c := by
  rintro ⟨x, rfl⟩ ⟨y, rfl⟩
  exact ⟨x ++ y, List.append_assoc a x y⟩

/-- `t` has the configuration and the transactions of `s`, and output sequences that begin with those of `s`. -/
structure AppendsOnly (s t : State) : Prop where
  cfg : t.cfg = s.cfg
  inputs : t.inputs = s.inputs
  upTx : extendsLog s.upTx t.upTx
  busTx : extendsLog s.busTx t.busTx
  evt : extendsLog s.evt t.evt
  hostOut : extendsLog s.hostOut t.hostOut

namespace AppendsOnly

/-- A change of the registers alone appends nothing. -/
theorem of_eq {s t : State} (cfg : t.cfg = s.cfg := by rfl) (inputs : t.inputs = s.inputs := by rfl)
    (upTx : t.upTx = s.upTx := by rfl) (busTx : t.busTx = s.busTx := by rfl) (evt : t.evt = s.evt := by rfl)
    (hostOut : t.hostOut = s.hostOut := by rfl) : AppendsOnly s t :=
  ⟨cfg, inputs, upTx ▸ extendsLog_refl _, busTx ▸ extendsLog_refl _, evt ▸ extendsLog_refl _,
    hostOut ▸ extendsLog_refl _⟩

theorem refl (s : State) : AppendsOnly s s := of_eq

theorem trans {s t u : State} (h : AppendsOnly s t) (h' : AppendsOnly t u) : AppendsOnly s u :=
  ⟨h'.cfg.trans h.cfg, h'.inputs.trans h.inputs, extendsLog_trans h.upTx h'.upTx, extendsLog_trans h.busTx h'.busTx,
    extendsLog_trans h.evt h'.evt, extendsLog_trans h.hostOut h'.hostOut⟩

theorem of_emitUp (q : List Byte) (s : State) : AppendsOnly s (emitUp q s) :=
  { refl s with upTx := extendsLog_append _ _ }

theorem of_emitBus (q : List Byte) (s : State) : AppendsOnly s (emitBus q s) :=
  { refl s with busTx := extendsLog_append _ _ }

theorem of_emitEvt (e : Event) (s : State) : AppendsOnly s (emitEvt e s) :=
  { refl s with evt := extendsLog_append _ _ }

end AppendsOnly

theorem withOk_extends (imm : Bool) (s : State) : extendsLog s.upTx (withOk imm s) := by
  cases imm
  · exact extendsLog_refl _
  · exact extendsLog_append _ _

theorem upPacket_appendsOnly {p : List Byte} {s t : State} (h : runUnit (.up p) s = .next t) : AppendsOnly s t := by
  rcases upPacket_cases h with rfl | ⟨q, rfl⟩ | ⟨g0, g1, g2, g3, imm, rfl⟩ |
    ⟨g0, g1, g2, g3, h0, h1, h2, h3, imm, rfl⟩
  · exact .refl _
  · exact .of_emitUp q s
  · exact { AppendsOnly.refl s with upTx := withOk_extends imm s }
  · exact { AppendsOnly.refl s with upTx := withOk_extends imm s }

theorem upFeed_appendsOnly {b : Byte} {s t : State} (h : upFeed b s = .next t) : AppendsOnly s t := by
  have hstored : AppendsOnly s (uaStore b (uaLatch b s)) := by rw [uaStore_eq]; exact .of_eq
  rcases upFeed_cases h with ⟨_, ⟨_, rfl⟩ | ⟨p, v, hv, rfl⟩⟩
  · exact hstored
  · exact (hstored.trans (upPacket_appendsOnly hv)).trans .of_eq

theorem pollReact_appendsOnly (s : State) : AppendsOnly s (pollReact s) := by
  rcases pollReact_cases s with ⟨_, _, e⟩ | ⟨_, _, _, e⟩ | ⟨_, _, _, e⟩ | ⟨_, _, e⟩ | ⟨_, _, e⟩ <;> rw [e]
  · rw [flush_eq]
    exact { AppendsOnly.refl s with busTx := extendsLog_trans (extendsLog_append _ _) (extendsLog_append _ _) }
  · exact { AppendsOnly.refl s with busTx := extendsLog_append _ _ }
  · exact .refl s
  · exact .of_emitBus _ s
  · exact .refl s

theorem pollTurn_appendsOnly (a : BitVec 6) (s : State) : AppendsOnly s (pollTurn a s) := by
  rcases pollTurn_cases a s with ⟨_, e⟩ | ⟨_, _, e⟩ | ⟨_, _, e⟩ <;> rw [e]
  · exact .of_eq
  · exact .of_eq
  · exact AppendsOnly.trans (t := addressed s) .of_eq (pollReact_appendsOnly (addressed s))

theorem fcTime_appendsOnly (opc : Byte) (text : List Byte) (s : State) : AppendsOnly s (fcTime opc text s) := by
  have hcache : AppendsOnly s (fcTimeCache opc text s) := .of_eq
  rcases fcTime_cases opc text s with ⟨_, e⟩ | ⟨_, e⟩ <;> rw [e]
  · exact hcache.trans (.of_emitEvt _ _)
  · exact hcache

theorem fcRateCmd_appendsOnly (r : Byte) (s : State) : AppendsOnly s (fcRateCmd r s) := by
  have hrate : AppendsOnly s { s with fcRate := fcRateOf r } := .of_eq
  rcases fcRateCmd_cases r s with ⟨_, e⟩ | ⟨_, _, e⟩ | ⟨_, _, e⟩ <;> rw [e]
  · exact .refl s
  · exact hrate
  · exact hrate.trans (.of_emitEvt _ _)

theorem pcUnit_appendsOnly {m : CabState} {p : List Byte} {s t : State} (h : runUnit (.pc m p) s = .next t) :
    AppendsOnly s t := by
  rcases pcUnit_cases h with rfl | ⟨a, rfl⟩ | ⟨e, rfl⟩ | ⟨q, rfl⟩ | ⟨opc, text, rfl⟩ | ⟨r, rfl⟩
  · exact .refl _
  · exact pollTurn_appendsOnly a s
  · exact .of_emitEvt e s
  · exact .of_emitBus q s
  · exact fcTime_appendsOnly opc text s
  · exact fcRateCmd_appendsOnly r s

theorem pcFeed_appendsOnly {b : Byte} {s t : State} (h : pcFeed b s = .next t) : AppendsOnly s t := by
  have hstored : AppendsOnly s (ibStore b (ibLatch b s)) := by rw [ibStore_eq]; exact .of_eq
  rcases pcFeed_cases h with h | ⟨_, _, ⟨_, rfl⟩ | ⟨p, v, hv, rfl⟩⟩
  · exact pcUnit_appendsOnly h
  · exact hstored
  · exact (hstored.trans (pcUnit_appendsOnly hv)).trans .of_eq

theorem raUnit_appendsOnly {p : List Byte} {s t : State} (h : runUnit (.ra p) s = .next t) : AppendsOnly s t := by
  rcases raUnit_cases h with rfl | ⟨q, rfl⟩
  · exact .refl _
  · exact .of_emitUp q s

theorem raTake_appendsOnly {b : Byte} {s t : State} (h : runFetch raClear (raTake b s) = .next t) :
    AppendsOnly s t := by
  have hstored : AppendsOnly s (raStore b s) := .of_eq
  rcases raTake_next h with ⟨_, ⟨_, rfl⟩ | ⟨p, v, hv, rfl⟩⟩
  · exact hstored
  · exact (hstored.trans (raUnit_appendsOnly hv)).trans .of_eq

theorem raFeed_appendsOnly {b : Byte} {s t : State} (h : raFeed b s = .next t) : AppendsOnly s t := by
  rcases raFeed_cases h with ⟨_, h⟩ | ⟨n, _, h⟩ | h
  · exact raTake_appendsOnly h
  · exact AppendsOnly.trans (t := raStart n s) .of_eq (raTake_appendsOnly h)
  · exact raUnit_appendsOnly h

theorem hostAccess_appendsOnly (reg : Byte) (a : HostAccess) (s : State) : AppendsOnly s (hostAccess reg a s) := by
  cases a with
  | read => exact { AppendsOnly.refl s with hostOut := extendsLog_append _ _ }
  | write v =>
    show AppendsOnly s (regWrite s reg v)
    rw [regWrite_frame]
    exact .of_eq

/-- A step takes the oldest transaction away, and appends only. -/
theorem step_appendsOnly {s t : State} (h : step s = .next t) :
    AppendsOnly { s with inputs := s.inputs.tail } t := by
  obtain ⟨_, hstep⟩ := step_cases h
  cases hstep with
  | idle hi ht => rw [ht, hi]; exact .of_eq (inputs := hi)
  | up b rest hi hup => rw [hi]; exact upFeed_appendsOnly hup
  | bus b p r rest u hi hpc hra =>
    rw [hi]
    have hu : AppendsOnly { s with inputs := rest } u := by
      cases p with
      | false => cases hpc; exact .refl _
      | true => exact pcFeed_appendsOnly hpc
    cases r with
    | false => cases hra; exact hu
    | true => exact hu.trans (raFeed_appendsOnly hra)
  | read reg rest hi ht => rw [ht, hi]; exact hostAccess_appendsOnly reg .read _
  | write reg v rest hi ht => rw [ht, hi]; exact hostAccess_appendsOnly reg (.write v) _
  | reset rest hi ht => rw [ht, hi]; exact .of_eq

/-- Settles O43. -/
theorem stepsAppendOutputsOnly : Obligations.StepsAppendOutputsOnly := by
  intro s t h
  obtain ⟨hcfg, hinputs, hup, hbus, hevt, hhost⟩ := step_appendsOnly h
  exact ⟨hcfg, hinputs, hup, hbus, hevt, hhost⟩

/-! ### The clock mode -/

/-- A unit of the poll/command machine leaves the clock mode or establishes one (rules R25, R178). -/
theorem pcUnit_fcMode {m : CabState} {p : List Byte} {s t : State} (h : runUnit (.pc m p) s = .next t) :
    t.fcMode = s.fcMode ∨ t.fcMode ≠ .none := by
  rcases pcUnit_cases h with rfl | ⟨a, rfl⟩ | ⟨e, rfl⟩ | ⟨q, rfl⟩ | ⟨opc, text, rfl⟩ | ⟨r, rfl⟩
  · exact .inl rfl
  · left
    rw [pollTurn_writes]
  · exact .inl rfl
  · exact .inl rfl
  · right
    rcases fcTime_cases opc text s with ⟨_, e⟩ | ⟨_, e⟩ <;> rw [e] <;> exact fcModeOf_established _
  · left
    rw [fcRateCmd_frame]

theorem pcFeed_fcMode {b : Byte} {s t : State} (h : pcFeed b s = .next t) :
    t.fcMode = s.fcMode ∨ t.fcMode ≠ .none := by
  have hstored : (ibStore b (ibLatch b s)).fcMode = s.fcMode := by rw [ibStore_eq]
  rcases pcFeed_cases h with h | ⟨_, _, ⟨_, rfl⟩ | ⟨p, v, hv, rfl⟩⟩
  · exact pcUnit_fcMode h
  · exact .inl hstored
  · rw [ibClear_fcMode, ← hstored]; exact pcUnit_fcMode hv

theorem upFrame_fcMode {s t : State} (h : upFrame s t) : t.fcMode = s.fcMode := by
  unfold upFrame at h; rw [h]

theorem replyFrame_fcMode {s t : State} (h : replyFrame s t) : t.fcMode = s.fcMode := by
  unfold replyFrame at h; rw [h]

theorem hostFrame_fcMode {s t : State} (h : hostFrame s t) : t.fcMode = s.fcMode := by
  unfold hostFrame at h; rw [h]

/-- A step that consumes no RESET leaves the clock mode or establishes one. -/
theorem step_fcMode {s t : State} (h : step s = .next t) (hr : s.inputs.head? ≠ some .reset) :
    t.fcMode = s.fcMode ∨ t.fcMode ≠ .none := by
  obtain ⟨_, hstep⟩ := step_cases h
  cases hstep with
  | idle _ ht => exact .inl (by rw [ht])
  | up b rest _ hup =>
    have e := upFrame_fcMode (upFeed_frame hup)
    exact .inl e
  | bus b p r rest u _ hpc hra =>
    have hu : u.fcMode = s.fcMode ∨ u.fcMode ≠ .none := by
      cases p with
      | false => cases hpc; exact .inl rfl
      | true => exact pcFeed_fcMode (s := { s with inputs := rest }) hpc
    cases r with
    | false => cases hra; exact hu
    | true => rw [replyFrame_fcMode (raFeed_frame hra)]; exact hu
  | read reg rest _ ht =>
    have e := hostFrame_fcMode (hostAccess_frame { s with inputs := rest } reg .read)
    exact .inl (by rw [ht]; exact e)
  | write reg v rest _ ht =>
    have e := hostFrame_fcMode (hostAccess_frame { s with inputs := rest } reg (.write v))
    exact .inl (by rw [ht]; exact e)
  | reset rest hi _ => rw [hi] at hr; exact absurd rfl hr

/-- Settles O48. -/
theorem clockModePersistsUntilReset : Obligations.ClockModePersistsUntilReset := by
  intro s t h hr hs
  rcases step_fcMode h hr with e | e
  · rw [e]; exact hs
  · exact e

/-! ### The key report -/

theorem flushingType_iff (s : State) : flushingType s.cfg.dev s.cabType = true ↔ flushes s := by
  simp [flushingType, flushes, or_assoc]

/-- Polled at its address with nothing staged, an LCD or no-LCD node reports its key and speed (rules R151, R154). -/
theorem pollTurn_reportsKey {s : State} {a : BitVec 6} (h0 : a ≠ 0) (ha : a = s.cabAddr) (hf : flushes s)
    (hsmart : s.cabType ≠ s.cfg.dev.cabTypeSmart) (htx0 : s.tx0.cnt = 0) (htx1 : s.tx1.cnt = 0) :
    pollTurn a s = pushKeySpeed (addressed s) := by
  have hflush : flushingType (addressed s).cfg.dev (addressed s).cabType = true := (flushingType_iff s).2 hf
  have hempty : anyPending (addressed s) = false := by simp [anyPending, pending, addressed, htx0, htx1]
  have hturn : pollTurn a s = pollReact (addressed s) := by
    rcases pollTurn_cases a s with ⟨h, _⟩ | ⟨_, h, _⟩ | ⟨_, _, e⟩
    · exact absurd h h0
    · exact absurd ha h
    · exact e
  rw [hturn]
  rcases pollReact_cases (addressed s) with ⟨_, h, _⟩ | ⟨_, _, _, e⟩ | ⟨_, _, h, _⟩ | ⟨h, _⟩ | ⟨h, _⟩
  · rw [hempty] at h; cases h
  · exact e
  · exact absurd h hsmart
  · rw [hflush] at h; cases h
  · rw [hflush] at h; cases h

/-- Settles O23: the first report leaves every premise of the second as it was and `NO_KEY` for its key. -/
theorem keyIsReportedOnce : Obligations.KeyIsReportedOnce := by
  intro s a h0 ha hf hsmart htx0 htx1
  refine ⟨pushKeySpeed (addressed s), pushKeySpeed (addressed (pushKeySpeed (addressed s))), ?_, ?_, rfl, rfl⟩
  · exact congrArg Host.Outcome.next (pollTurn_reportsKey h0 ha hf hsmart htx0 htx1)
  · exact congrArg Host.Outcome.next (pollTurn_reportsKey (s := pushKeySpeed (addressed s)) h0 ha hf hsmart htx0 htx1)

end Sys2Proof.Machine
end

section
/-! A second poll of this node: an AIU node repeats its packet, and staged frames are not sent again. -/

namespace Sys2Proof.Machine

/-! ### Polled at its own address -/

theorem exec_poll (a : BitVec 6) (s : State) : exec (.poll a) s = .next (pollTurn a s) := rfl

/-- A node polled at its non-zero address reacts (rule R151). -/
theorem pollTurn_addressed {s : State} {a : BitVec 6} (h0 : a ≠ 0) (ha : a = s.cabAddr) :
    pollTurn a s = pollReact (addressed s) := by
  rcases pollTurn_cases a s with ⟨h, _⟩ | ⟨_, h, _⟩ | ⟨_, _, e⟩
  · exact absurd h h0
  · exact absurd ha h
  · exact e

theorem anyPending_iff (s : State) : anyPending s = true ↔ s.tx0.cnt ≠ 0 ∨ s.tx1.cnt ≠ 0 := by
  simp [anyPending, pending]

/-- A node that flushes, with some slot pending, answers its poll with the flush (rule R152). -/
theorem pollTurn_flushes {s : State} {a : BitVec 6} (h0 : a ≠ 0) (ha : a = s.cabAddr) (hf : flushes s)
    (hp : anyPending s = true) : pollTurn a s = flush (addressed s) := by
  have hflush : flushingType (addressed s).cfg.dev (addressed s).cabType = true := (flushingType_iff s).2 hf
  have hpending : anyPending (addressed s) = true := hp
  rw [pollTurn_addressed h0 ha, pollReact, if_pos hflush, if_pos hpending]

/-- A SMART node with nothing staged stays silent (rule R152). -/
theorem pollTurn_smart_silent {s : State} {a : BitVec 6} (h0 : a ≠ 0) (ha : a = s.cabAddr)
    (hsmart : s.cabType = s.cfg.dev.cabTypeSmart) (htx0 : s.tx0.cnt = 0) (htx1 : s.tx1.cnt = 0) :
    pollTurn a s = addressed s := by
  have hflush : flushingType (addressed s).cfg.dev (addressed s).cabType = true :=
    (flushingType_iff s).2 (.inr (.inr hsmart))
  have hempty : ¬ anyPending (addressed s) = true := by
    rw [anyPending_iff]
    exact not_or.2 ⟨not_not.2 htx0, not_not.2 htx1⟩
  have htype : ¬ ((addressed s).cabType != (addressed s).cfg.dev.cabTypeSmart) = true := by
    rw [bne_iff_ne]
    exact not_not.2 hsmart
  rw [pollTurn_addressed h0 ha, pollReact, if_pos hflush, if_neg hempty, if_neg htype]

/-! ### The AIU node -/

/-- A well-formed configuration tells AIU apart from the types that flush (rule R1 (f)). -/
theorem flushingType_aiu {c : Cfg} (hw : c.wellFormed = true) : flushingType c.dev c.dev.cabTypeAiu = false := by
  simp only [Cfg.wellFormed, DevCfg.ok, Bool.and_eq_true] at hw
  obtain ⟨_, hdistinct, _⟩ := hw
  simp only [allDistinct, List.contains_cons, Bool.and_eq_true, Bool.not_eq_true', Bool.or_eq_false_iff,
    beq_eq_false_iff_ne] at hdistinct
  obtain ⟨⟨_, _, hlcd, _⟩, ⟨_, hnoLcd, _⟩, ⟨hsmart, _⟩, _⟩ := hdistinct
  simp [flushingType, hlcd.symm, hnoLcd.symm, hsmart.symm]

/-- An AIU node answers its poll with `aiu`, whatever is staged (rules R152, R155). -/
theorem pollTurn_pushesAiu {s : State} {a : BitVec 6} (hw : s.cfg.wellFormed = true) (h0 : a ≠ 0)
    (ha : a = s.cabAddr) (haiu : s.cabType = s.cfg.dev.cabTypeAiu) : pollTurn a s = pushAiu (addressed s) := by
  have hflush : ¬ flushingType (addressed s).cfg.dev (addressed s).cabType = true := by
    show ¬ flushingType s.cfg.dev s.cabType = true
    rw [haiu, flushingType_aiu hw]
    exact Bool.false_ne_true
  have htype : ((addressed s).cabType == (addressed s).cfg.dev.cabTypeAiu) = true := beq_iff_eq.2 haiu
  rw [pollTurn_addressed h0 ha, pollReact, if_neg hflush, if_pos htype]

/-- Settles O22: the reaction leaves its own premises and `aiu` as they were, so the second poll repeats it. -/
theorem aiuPollIsIdempotent : Obligations.AiuPollIsIdempotent := by
  intro s a hw h0 ha haiu
  refine ⟨pushAiu (addressed s), _, ?_, rfl, rfl, ?_⟩
  · rw [exec_poll, pollTurn_pushesAiu hw h0 ha haiu]
  · rw [exec_poll, pollTurn_pushesAiu (s := pushAiu (addressed s)) hw h0 ha haiu]
    rfl

/-! ### The nodes that flush -/

/-- A flush with some slot pending sends something (rule R153). -/
theorem flush_sends {s : State} (hp : anyPending s = true) : (flush s).busTx ≠ s.busTx := by
  simp only [anyPending, Bool.or_eq_true] at hp
  rcases hp with h | h <;> simp [flush_eq, h]

/-- The poll state after a flush is the one the next poll of this node begins in. -/
theorem addressed_flush_addressed (s : State) : addressed (flush (addressed s)) = flush (addressed s) := by
  rw [flush_eq]; rfl

theorem flush_tx0_cnt (s : State) : (flush s).tx0.cnt = 0 := by rw [flush_eq]

theorem flush_tx1_cnt (s : State) : (flush s).tx1.cnt = 0 := by rw [flush_eq]

/-- A flush leaves what a poll of this node tests besides the slots, and what it reports. -/
theorem flush_keeps (s : State) :
    (flush s).cfg = s.cfg ∧ (flush s).cabType = s.cabType ∧ (flush s).cabAddr = s.cabAddr ∧ (flush s).key = s.key ∧
      (flush s).speed = s.speed := by
  rw [flush_eq]
  exact ⟨rfl, rfl, rfl, rfl, rfl⟩

/-- The key report in numbers (rule R154). -/
theorem pushKeySpeed_eq (s : State) :
    pushKeySpeed s =
      { s with
        busTx := s.busTx ++ [[BitVec.ofNat 8 s.key.toNat, BitVec.ofNat 8 s.speed.toNat]]
        key := s.cfg.dev.noKey } := by
  simp [pushKeySpeed, emitBus]

/-- Settles O24: the first poll empties both slots, so the second finds nothing staged. -/
theorem flushedFramesAreNotSentAgain : Obligations.FlushedFramesAreNotSentAgain := by
  intro s a h0 ha hf hp
  have hpending : anyPending (addressed s) = true := (anyPending_iff (addressed s)).2 hp
  obtain ⟨hcfg, htype, haddr, hkey, hspeed⟩ := flush_keeps (addressed s)
  have hsame := addressed_flush_addressed s
  have htx0 := flush_tx0_cnt (addressed s)
  have htx1 := flush_tx1_cnt (addressed s)
  have hsends := flush_sends hpending
  refine ⟨flush (addressed s), by rw [exec_poll, pollTurn_flushes h0 ha hf hpending], hsends, htx0, htx1, ?_⟩
  generalize flush (addressed s) = t at *
  have ha' : a = t.cabAddr := ha.trans haddr.symm
  have hf' : flushes t := by unfold flushes; rw [hcfg, htype]; exact hf
  rw [exec_poll]
  split
  next hsmart =>
    have hsmart' : t.cabType = t.cfg.dev.cabTypeSmart := by rw [hcfg, htype]; exact hsmart
    rw [pollTurn_smart_silent h0 ha' hsmart' htx0 htx1, hsame]
  next hsmart =>
    have hsmart' : t.cabType ≠ t.cfg.dev.cabTypeSmart := by rw [hcfg, htype]; exact hsmart
    rw [pollTurn_reportsKey h0 ha' hf' hsmart' htx0 htx1, hsame, pushKeySpeed_eq, hkey, hspeed, hcfg]
    rfl

end Sys2Proof.Machine
end

section
/-! The codec in numbers: the checksum (rule R90) and the CV split with its inverse (rules R93 and R94). -/

namespace Sys2Proof

/-! ### The checksum -/

/-- Settles O1: two bytes have XOR zero exactly when they are equal, here the checksum and the closing byte. -/
theorem xorChecksumClosesFrame : Obligations.XorChecksumClosesFrame := by
  intro f0 f1 f2 f3
  refine ⟨rfl, fun c => ?_⟩
  calc f0 ^^^ f1 ^^^ f2 ^^^ f3 ^^^ c = 0
    _ ↔ xor4 f0 f1 f2 f3 = c := BitVec.xor_eq_zero_iff
    _ ↔ c = xor4 f0 f1 f2 f3 := eq_comm

/-! ### The CV split -/

/-- A well-formed base leaves room for the six high address bits (rule R1 (d)). -/
theorem cvPack_aH_toNat {base : Byte} {addr : Word16} (data : Byte) (hb : base.toNat + 63 ≤ 255)
    (ha : addr.toNat ≤ 0x0FFF) : (cvPack base addr data).1.toNat = base.toNat + addr.toNat / 64 := by
  simp only [cvPack, BitVec.toNat_add, BitVec.toNat_setWidth, BitVec.toNat_ushiftRight, Nat.shiftRight_eq_div_pow]
  omega

/-- The sum never carries: bit 0 of the shifted address is free for the top data bit. -/
theorem cvPack_aL_toNat (base : Byte) (addr : Word16) (data : Byte) :
    (cvPack base addr data).2.1.toNat = addr.toNat % 64 * 2 + data.toNat / 128 := by
  have hmask : ((addr <<< 1) &&& 0x7F).toNat = addr.toNat % 64 * 2 := by
    rw [BitVec.toNat_and, show (0x7F : Word16).toNat = 2 ^ 7 - 1 from rfl, Nat.and_two_pow_sub_one_eq_mod,
      BitVec.toNat_shiftLeft, Nat.shiftLeft_eq]
    omega
  simp only [cvPack, BitVec.toNat_add, BitVec.toNat_setWidth, hmask, BitVec.toNat_ushiftRight,
    Nat.shiftRight_eq_div_pow]
  omega

theorem cvPack_d7_toNat (base : Byte) (addr : Word16) (data : Byte) :
    (cvPack base addr data).2.2.toNat = data.toNat % 128 :=
  Nat.and_two_pow_sub_one_eq_mod data.toNat 7

/-! ### The inverse split -/

theorem cvUnpack_addr_toNat (base aH aL d7 : Byte) :
    (cvUnpack base aH aL d7).1.toNat = ((aH - base).toNat * 64 ||| aL.toNat / 2) := by
  have hhigh : ((aH - base).setWidth 16 <<< 6 : Word16).toNat = (aH - base).toNat * 64 := by
    rw [BitVec.toNat_shiftLeft, BitVec.toNat_setWidth, Nat.shiftLeft_eq]
    omega
  have hlow : ((aL >>> 1).setWidth 16 : Word16).toNat = aL.toNat / 2 := by
    rw [BitVec.toNat_setWidth, BitVec.toNat_ushiftRight, Nat.shiftRight_eq_div_pow]
    omega
  rw [cvUnpack, BitVec.toNat_or, hhigh, hlow]

theorem cvUnpack_data_toNat (base aH aL d7 : Byte) :
    (cvUnpack base aH aL d7).2.toNat = (aL.toNat % 2 * 128 ||| d7.toNat) := by
  have htop : ((aL &&& 1) <<< 7).toNat = aL.toNat % 2 * 128 := by
    rw [BitVec.toNat_shiftLeft, BitVec.toNat_and, show (1 : Byte).toNat = 1 from rfl, Nat.and_one_is_mod,
      Nat.shiftLeft_eq]
    omega
  rw [cvUnpack, BitVec.toNat_or, htop]

/-! ### The round trip -/

/-- A number is the OR of its high part and its low `i` bits: the two share no bit. -/
theorem div_mul_or_mod_two_pow (n i : Nat) : n / 2 ^ i * 2 ^ i ||| n % 2 ^ i = n := by
  rw [Nat.mul_comm, ← Nat.two_pow_add_eq_or_of_lt (Nat.mod_lt n (Nat.two_pow_pos i)), Nat.div_add_mod]

/-- The law of rule R94: the split loses no bit of a legal address or of the data. -/
theorem cvUnpack_cvPack {base : Byte} {addr : Word16} (data : Byte) (hb : base.toNat + 63 ≤ 255)
    (ha : addr.toNat ≤ 0x0FFF) :
    cvUnpack base (cvPack base addr data).1 (cvPack base addr data).2.1 (cvPack base addr data).2.2 = (addr, data) := by
  have haH := cvPack_aH_toNat data hb ha
  have haL := cvPack_aL_toNat base addr data
  have hd7 := cvPack_d7_toNat base addr data
  generalize cvPack base addr data = v at haH haL hd7 ⊢
  have hhigh : (v.1 - base).toNat = addr.toNat / 2 ^ 6 := by bv_omega
  have hlow : v.2.1.toNat / 2 = addr.toNat % 2 ^ 6 := by omega
  have htop : v.2.1.toNat % 2 = data.toNat / 2 ^ 7 := by omega
  refine Prod.ext (BitVec.eq_of_toNat_eq ?_) (BitVec.eq_of_toNat_eq ?_)
  · rw [cvUnpack_addr_toNat, hhigh, hlow]
    exact div_mul_or_mod_two_pow addr.toNat 6
  · rw [cvUnpack_data_toNat, htop, hd7]
    exact div_mul_or_mod_two_pow data.toNat 7

/-- Settles O4: the split and its inverse in numbers, and the round trip from them. -/
theorem cvSplitRoundTrip : Obligations.CvSplitRoundTrip :=
  ⟨fun base aH aL d7 => ⟨cvUnpack_addr_toNat base aH aL d7, cvUnpack_data_toNat base aH aL d7⟩,
    fun base addr data hb ha =>
      ⟨cvPack_aH_toNat data hb ha, cvPack_aL_toNat base addr data, cvPack_d7_toNat base addr data,
        cvUnpack_cvPack data hb ha⟩⟩

end Sys2Proof
end

section
/-! What the decoder accepts: under a well-formed configuration every unit of the length its leading byte declares is
decoded, but for the completed commands of class NONE (rule R177). -/

namespace Sys2Proof.Machine

/-! ### Formats -/

/-- Every list of `n` bytes is of the format `f`. -/
def Accepts (n : Nat) (f : List Byte → Except DecodeError Instr) : Prop :=
  ∀ rest : List Byte, rest.length = n → ∃ i, f rest = .ok i

theorem formatU1_accepts (i : Instr) : Accepts 0 (formatU1 i)
  | [], _ => ⟨_, rfl⟩

theorem formatU2_accepts (f : Byte → Instr) : Accepts 1 (formatU2 f)
  | [_], _ => ⟨_, rfl⟩

theorem formatU3R_accepts (f : Byte → Byte → Instr) : Accepts 2 (formatU3R f)
  | [_, _], _ => ⟨_, rfl⟩

theorem formatU3_accepts (f : Word16 → Instr) : Accepts 2 (formatU3 f)
  | [_, _], _ => ⟨_, rfl⟩

theorem formatU4_accepts (f : Word16 → Byte → Instr) : Accepts 3 (formatU4 f)
  | [_, _, _], _ => ⟨_, rfl⟩

theorem formatU5_accepts (f : Word16 → Byte → Byte → Instr) : Accepts 4 (formatU5 f)
  | [_, _, _, _], _ => ⟨_, rfl⟩

theorem formatU6_accepts (f : Word16 → Word16 → Byte → Instr) : Accepts 5 (formatU6 f)
  | [_, _, _, _, _], _ => ⟨_, rfl⟩

theorem formatList_accepts (n : Nat) (f : List Byte → Instr) : Accepts n (formatList n f) :=
  fun _ h => ⟨_, if_pos h⟩

/-! ### Upstream packets -/

/-- The length of an upstream opcode is the one its class's format asks for (rule R1 (b)). -/
theorem upLen_of_formatLen {c : Cfg} (hw : c.wellFormed = true) {b : Byte} (hr : upInRange c.up b = true)
    {n : BitVec 4} (hn : (upClassOf c.up b).formatLen = some n) : upLen c.up b = n := by
  unfold upClassOf at hn
  unfold upLen
  rw [if_pos hr]
  cases he : upEntry c.up b with
  | none => rw [he] at hn; cases hn
  | some e =>
    have hok := upEntry_ok hw he
    rw [he] at hn
    simp only [UpEntry.ok, hn, Bool.and_eq_true, beq_iff_eq] at hok
    obtain ⟨⟨_, hlen⟩, _⟩ := hok
    exact hlen

/-- An opcode of the upstream range has a length, which the assembler latches (rules R1 (b), R111). -/
theorem upPacketLen_of_inRange {c : Cfg} (hw : c.wellFormed = true) {b : Byte} (hr : upInRange c.up b = true) :
    upPacketLen c.up b = upLen c.up b := by
  have hpos : upLen c.up b ≠ 0 := by
    unfold upLen
    rw [if_pos hr]
    cases he : upEntry c.up b with
    | none => show (1 : BitVec 4) ≠ 0; decide
    | some e =>
      have hok := upEntry_ok hw he
      simp only [UpEntry.ok, Bool.and_eq_true, decide_eq_true_eq] at hok
      obtain ⟨⟨⟨hone, _⟩, _⟩, _⟩ := hok
      show e.len ≠ 0
      bv_omega
  exact if_neg hpos

/-- A byte outside the upstream range is a packet of length 1 (rule R111). -/
theorem upPacketLen_of_outOfRange {u : UpCfg} {b : Byte} (hr : upInRange u b = false) : upPacketLen u b = 1 := by
  simp [upPacketLen, upLen, hr]

/-- The bytes after an opcode of class `k`, as many as the length leaves, are of the class's format. -/
theorem decodeUpClass_accepts (opc : Byte) {len : BitVec 4} {k : UpClass}
    (hn : ∀ n, k.formatLen = some n → len = n) : Accepts (len.toNat - 1) (decodeUpClass opc len k) := by
  cases k with
  | unsupported => exact formatList_accepts _ _
  | nop | nopCrlf | progEnter | progExit | fwVer => rw [hn _ rfl]; exact formatU1_accepts _
  | status | runMacro | regRead => rw [hn _ rfl]; exact formatU2_accepts _
  | regProg => rw [hn _ rfl]; exact formatU3R_accepts _
  | cvReadPaged | cvReadDirect => rw [hn _ rfl]; exact formatU3_accepts _
  | cvProgPaged | cvProgDirect => rw [hn _ rfl]; exact formatU4_accepts _
  | locoCtrl | accCtrl => rw [hn _ rfl]; exact formatU5_accepts _
  | opsLoco | opsAcc => rw [hn _ rfl]; exact formatU6_accepts _

/-- An upstream packet of its table length is a unit, whatever its data bytes. -/
theorem decode_up_of_length {c : Cfg} (hw : c.wellFormed = true) {opc : Byte} {body : List Byte}
    (hl : (upPacketLen c.up opc).toNat = (opc :: body).length) : ∃ i, decode c (.up (opc :: body)) = .ok i := by
  rw [List.length_cons] at hl
  cases hr : upInRange c.up opc with
  | true =>
    rw [upPacketLen_of_inRange hw hr] at hl
    obtain ⟨i, hi⟩ := decodeUpClass_accepts opc (fun _ => upLen_of_formatLen hw hr) body (by omega)
    exact ⟨i, (if_pos hr).trans hi⟩
  | false =>
    rw [upPacketLen_of_outOfRange hr] at hl
    obtain ⟨i, hi⟩ := formatU1_accepts (.upOutOfRange opc) body (Nat.succ.inj hl).symm
    exact ⟨i, (if_neg (by simp [hr])).trans hi⟩

/-! ### Units of the poll/command machine -/

/-- The length of an addressed command of a class other than NONE is the one its class asks for (rule R1 (c)). -/
theorem ibLen_addressed_frameLen {c : Cfg} (hw : c.wellFormed = true) {b : Byte} {n : BitVec 4}
    (hn : (addrClassOf c.ib b).frameLen = some n) : ibLen c.ib .addressed b = n := by
  unfold addrClassOf at hn
  unfold ibLen
  cases he : addrEntry c.ib b with
  | none => rw [he] at hn; cases hn
  | some e =>
    have hok := addrEntry_ok hw he
    rw [he] at hn
    simp only [ibEntryOk, hn, Bool.and_eq_true, beq_iff_eq] at hok
    exact hok.2

/-- The length of a broadcast command of a class other than NONE is the one its class asks for (rule R1 (c)). -/
theorem ibLen_broadcast_frameLen {c : Cfg} (hw : c.wellFormed = true) {b : Byte} {n : BitVec 4}
    (hn : (bcastClassOf c.ib b).frameLen = some n) : ibLen c.ib .broadcast b = n := by
  unfold bcastClassOf at hn
  unfold ibLen
  cases he : bcastEntry c.ib b with
  | none => rw [he] at hn; cases hn
  | some e =>
    have hok := bcastEntry_ok hw he
    rw [he] at hn
    simp only [ibEntryOk, hn, Bool.and_eq_true, beq_iff_eq] at hok
    exact hok.2

theorem decodeAddrClass_accepts (opc : Byte) {k : AddrClass} {len : BitVec 4} (hn : k.frameLen = some len) :
    Accepts (len.toNat - 1) (decodeAddrClass opc k) := by
  cases k with
  | noClass => cases hn
  | lcdText => cases hn; exact formatList_accepts _ _
  | cursorMove => cases hn; exact formatU2_accepts _
  | tty advance => cases hn; cases advance <;> exact formatU2_accepts _
  | cursorMode m => cases hn; cases m <;> exact formatU1_accepts _
  | cabTypeQuery => cases hn; exact formatU1_accepts _

theorem decodeBcastClass_accepts (opc : Byte) {k : BcastClass} {len : BitVec 4} (hn : k.frameLen = some len) :
    Accepts (len.toNat - 1) (decodeBcastClass opc k) := by
  cases k with
  | noClass => cases hn
  | fcTime => cases hn; exact formatList_accepts _ _
  | fcRate => cases hn; exact formatU2_accepts _

/-- The one class without a frame length is NONE (rules R66, R177). -/
theorem decodeAddrClass_of_noFrame (opc : Byte) {k : AddrClass} (hn : k.frameLen = none) (rest : List Byte) :
    decodeAddrClass opc k rest = .error .noClass := by
  cases k with
  | noClass => rfl
  | _ => cases hn

theorem decodeBcastClass_of_noFrame (opc : Byte) {k : BcastClass} (hn : k.frameLen = none) (rest : List Byte) :
    decodeBcastClass opc k rest = .error .noClass := by
  cases k with
  | noClass => rfl
  | _ => cases hn

/-- A completed inbound command of its table length is a unit, or of class NONE. -/
theorem decodeIb_of_length {c : Cfg} (hw : c.wellFormed = true) {m : IbMode} {opc : Byte} {body : List Byte}
    (hl : (ibLen c.ib m opc).toNat = (opc :: body).length) :
    (∃ i, decodeIb c m opc body = .ok i) ∨ decodeIb c m opc body = .error .noClass := by
  rw [List.length_cons] at hl
  have hpos : ibLen c.ib m opc ≠ 0 := fun h => by rw [h] at hl; cases hl
  unfold decodeIb
  rw [if_neg hpos]
  cases m with
  | addressed =>
    cases hn : (addrClassOf c.ib opc).frameLen with
    | none => exact .inr (decodeAddrClass_of_noFrame opc hn body)
    | some n =>
      rw [ibLen_addressed_frameLen hw hn] at hl
      exact .inl (decodeAddrClass_accepts opc hn body (by omega))
  | broadcast =>
    cases hn : (bcastClassOf c.ib opc).frameLen with
    | none => exact .inr (decodeBcastClass_of_noFrame opc hn body)
    | some n =>
      rw [ibLen_broadcast_frameLen hw hn] at hl
      exact .inl (decodeBcastClass_accepts opc hn body (by omega))

/-- In a state that accepts commands, bytes that begin with no poll byte are read by the table in force. -/
theorem decode_pc_executing {c : Cfg} {m : CabState} {opc : Byte} (body : List Byte) (hm : executing m = true)
    (hp : isPoll opc = false) : decode c (.pc m (opc :: body)) = decodeIb c (ibModeOf m) opc body := by
  cases m with
  | unknown | pingOther => cases hm
  | execMyCmd | execBroadcastCmd => simp [decode, decodePc, hp, ibModeOf]

/-- A byte that the poll/command machine takes by itself is a unit: a poll byte, a byte ignored, or a byte that is no
opcode (rules R151, R158, R159). -/
theorem decode_pc_single {b : Byte} {s : State} (h : pcSingle b s = true) :
    ∃ i, decode s.cfg (.pc s.cabState [b]) = .ok i := by
  cases hp : isPoll b with
  | true => exact ⟨.poll (pollAddr b), by simp [decode, decodePc, hp, formatU1]⟩
  | false =>
    cases hm : executing s.cabState with
    | true =>
      have hlen : ibLen s.cfg.ib (ibModeOf s.cabState) b = 0 := by simp_all [pcSingle]
      exact ⟨.ibUnknown (ibModeOf s.cabState) b, by
        rw [decode_pc_executing [] hm hp]; simp [decodeIb, hlen, formatU1]⟩
    | false =>
      refine ⟨.ibIgnored b, ?_⟩
      cases hs : s.cabState with
      | unknown | pingOther => simp [decode, decodePc, hp, formatU1]
      | execMyCmd | execBroadcastCmd => rw [hs] at hm; cases hm

/-! ### Replies -/

/-- A lead byte and as many bytes as its declared size asks for are a reply (rules R67, R194 to R196). -/
theorem decode_ra_of_size {c : Cfg} {lead : Byte} {n : BitVec 3} (hn : raSizeOf lead = some n) {body : List Byte}
    (hl : (lead :: body).length = n.toNat) : ∃ i, decode c (.ra (lead :: body)) = .ok i := by
  rcases raSizeOf_some hn with ⟨rfl, rfl⟩ | ⟨rfl, rfl⟩ | ⟨rfl, rfl⟩
  · match body, hl with
    | [_, _], _ => exact ⟨_, rfl⟩
  · match body, hl with
    | [_, _, _], _ => exact ⟨_, rfl⟩
  · match body, hl with
    | [_, _, _, _, _, _], _ => exact ⟨_, rfl⟩

/-- A byte that is no lead byte is a unit by itself outside a reply (rule R191). -/
theorem decode_ra_single {c : Cfg} {b : Byte} (hn : raSizeOf b = none) : decode c (.ra [b]) = .ok (.replyNone b) := by
  unfold raSizeOf at hn
  split_ifs at hn with h8 h9 hA
  exact (if_neg h8).trans ((if_neg h9).trans (if_neg hA))

end Sys2Proof.Machine
end

section
/-! From a state that meets the invariant `Sound` no step stops: the counters lie inside their buffers, and what a
machine completes is of the length its first byte declares. -/

namespace Sys2Proof.Machine

/-! ### Units that are decoded, or have no effect, are answered -/

theorem runUnit_answers {w : Wire} {s : State}
    (h : (∃ i, decode s.cfg w = .ok i) ∨ decode s.cfg w = .error .noClass) : ∃ t, runUnit w s = .next t := by
  rcases h with ⟨i, hi⟩ | hnone
  · rw [runUnit_of_ok hi]; exact exec_answers i s
  · exact ⟨s, runUnit_of_noClass hnone⟩

theorem runFetch_complete_answers {clear : State → State} {w : Wire} {u : State} (h : ∃ t, runUnit w u = .next t) :
    ∃ t, runFetch clear (.complete w u) = .next t := by
  obtain ⟨t, ht⟩ := h
  exact ⟨clear t, by simp [runFetch, ht]⟩

/-- A completed unit begins with the byte at index 0, which selected its length. -/
theorem memSlice_cons (m : Memory) {n : Nat} (h : 0 < n) :
    ∃ body, memSlice m n = memRead m 0 :: body ∧ (memRead m 0 :: body).length = n :=
  ⟨_, memSlice_head m n h, by rw [← memSlice_head m n h, memSlice_length]⟩

/-! ### The upstream assembler -/

/-- The latched length is the one the byte at index 0 has in the table, once a byte is stored. -/
theorem uaStore_uaLen_table {s : State} (hs : uaSound s) (b : Byte) :
    (uaStore b (uaLatch b s)).uaLen = upPacketLen s.cfg.up (memRead (uaStore b (uaLatch b s)).uaBuf 0) := by
  rw [uaStore_eq]
  by_cases hc : s.uaCnt = 0
  · simp only [uaLatch_uaLen_first b hc, memRead_write_first _ hc]
  · obtain ⟨_, _, hlen⟩ := hs.resolve_left hc
    simp only [uaLatch_uaLen_later b hc, memRead_write_later _ hc, hlen]

theorem uaSound_uaCnt_lt {s : State} (hs : uaSound s) : s.uaCnt.toNat < uaBufSize := by
  unfold uaBufSize
  rcases hs with hc | ⟨hlt, hle, _⟩
  · simp [hc]
  · bv_omega

theorem upFeed_answers (b : Byte) {s : State} (hs : Sound s) : ∃ t, upFeed b s = .next t := by
  unfold upFeed
  rcases upFetch_cases b s with ⟨hover, _⟩ | ⟨_, _, e⟩ | ⟨_, _, e⟩
  · exact absurd (uaSound_uaCnt_lt hs.ua) (Nat.not_lt.2 hover)
  · exact ⟨_, by rw [e]; rfl⟩
  · rw [e]
    refine runFetch_complete_answers (runUnit_answers (.inl ?_))
    have hcfg : (uaStore b (uaLatch b s)).cfg = s.cfg := by simp
    have hlen := uaStore_uaLen_table hs.ua b
    obtain ⟨hone, _⟩ := upPacketLen_bounds hs.cfg (memRead (uaStore b (uaLatch b s)).uaBuf 0)
    have hpos : 0 < (uaStore b (uaLatch b s)).uaLen.toNat := by rw [hlen]; bv_omega
    obtain ⟨body, hbody, hl⟩ := memSlice_cons (uaStore b (uaLatch b s)).uaBuf hpos
    rw [hcfg, uaPacket, hbody]
    exact decode_up_of_length hs.cfg (by rw [hl, hlen])

/-! ### The poll/command machine -/

/-- Once a byte is stored, index 0 holds an opcode, no poll byte, of the latched length. -/
theorem ibStore_opcode {s : State} (hw : s.cfg.wellFormed = true) (hs : ibSound s) {b : Byte}
    (hp : pcSingle b s = false) :
    isPoll (memRead (ibStore b (ibLatch b s)).ibBuf 0) = false ∧
      (ibStore b (ibLatch b s)).ibLen =
        ibLen s.cfg.ib (ibModeOf s.cabState) (memRead (ibStore b (ibLatch b s)).ibBuf 0) ∧
      (ibStore b (ibLatch b s)).ibLen ≠ 0 := by
  obtain ⟨hpoll, _, hpos⟩ := pcSingle_false hp
  rw [ibStore_eq]
  by_cases hc : s.ibCnt = 0
  · simp only [ibLatch_ibLen_first b hc, memRead_write_first _ hc, storedByte_opcode hw hc]
    exact ⟨hpoll, trivial, hpos hc⟩
  · obtain ⟨hlt, _, _, hpoll', hlen⟩ := hs.resolve_left hc
    simp only [ibLatch_ibLen_later b hc, memRead_write_later _ hc]
    exact ⟨hpoll', hlen, by bv_omega⟩

theorem ibSound_ibCnt_lt {s : State} (hs : ibSound s) : s.ibCnt.toNat < ibBufSize := by
  unfold ibBufSize
  rcases hs with hc | ⟨hlt, hle, _⟩
  · simp [hc]
  · bv_omega

theorem pcFeed_answers (b : Byte) {s : State} (hs : Sound s) : ∃ t, pcFeed b s = .next t := by
  unfold pcFeed
  rcases pcFetch_cases b s with ⟨hp, e⟩ | ⟨_, hover, _⟩ | ⟨_, _, _, e⟩ | ⟨hp, _, _, e⟩
  · rw [e]; exact runUnit_answers (.inl (decode_pc_single hp))
  · exact absurd (ibSound_ibCnt_lt hs.ib) (Nat.not_lt.2 hover)
  · exact ⟨_, by rw [e]; rfl⟩
  · rw [e]
    refine runFetch_complete_answers (runUnit_answers ?_)
    have hcfg : (ibStore b (ibLatch b s)).cfg = s.cfg := by simp
    obtain ⟨hpoll, hlen, hne⟩ := ibStore_opcode hs.cfg hs.ib hp
    obtain ⟨_, hexec, _⟩ := pcSingle_false hp
    have hpos : 0 < (ibStore b (ibLatch b s)).ibLen.toNat := by bv_omega
    obtain ⟨body, hbody, hl⟩ := memSlice_cons (ibStore b (ibLatch b s)).ibBuf hpos
    rw [hcfg, ibFrame, hbody, decode_pc_executing _ hexec hpoll]
    exact decodeIb_of_length hs.cfg (by rw [hl, hlen])

/-! ### The reply assembler -/

/-- A byte taken into a reply is answered, if the counter is below the declared size and the byte at index 0 is then
the lead byte of that size. -/
theorem raTake_answers {b : Byte} {s : State} (hlt : s.raCnt < s.raSize)
    (hlead : raSizeOf (memRead (memWrite s.raBuf s.raCnt.toNat b) 0) = some s.raSize) :
    ∃ t, runFetch raClear (raTake b s) = .next t := by
  rcases raTake_cases b s with ⟨hover, _⟩ | ⟨_, _, e⟩ | ⟨_, _, e⟩
  · unfold raBufSize at hover
    bv_omega
  · exact ⟨_, by rw [e]; rfl⟩
  · rw [e]
    refine runFetch_complete_answers (runUnit_answers (.inl ?_))
    have hpos : 0 < (raStore b s).raSize.toNat := by rw [raStore_raSize]; bv_omega
    obtain ⟨body, hbody, hl⟩ := memSlice_cons (raStore b s).raBuf hpos
    rw [raFrame, hbody]
    exact decode_ra_of_size hlead hl

theorem raFeed_answers (b : Byte) {s : State} (hs : raSound s) : ∃ t, raFeed b s = .next t := by
  unfold raFeed
  rcases raFetch_cases b s with ⟨ha, e⟩ | ⟨_, n, hn, e⟩ | ⟨_, hn, e⟩ <;> rw [e]
  · rcases hs with ⟨hidle, _⟩ | ⟨_, hpos, hlt, hlead⟩
    · rw [ha] at hidle; cases hidle
    · have hc : s.raCnt ≠ 0 := by bv_omega
      exact raTake_answers hlt (by rw [memRead_write_later _ hc]; exact hlead)
  · have hpos : 0 < n := by rcases raSizeOf_some hn with ⟨_, rfl⟩ | ⟨_, rfl⟩ | ⟨_, rfl⟩ <;> decide
    exact raTake_answers hpos (by rw [memRead_write_first _ (raStart_raCnt s n)]; exact hn)
  · exact runUnit_answers (.inl ⟨_, decode_ra_single hn⟩)

/-! ### Every transaction is answered -/

theorem busFeed_answers (b : Byte) (p r : Bool) {s : State} (hs : Sound s) : ∃ t, busFeed b p r s = .next t := by
  have hpc : ∃ u, (if p then pcFeed b s else .next s) = .next u ∧ Sound u := by
    cases p with
    | false => exact ⟨s, rfl, hs⟩
    | true =>
      obtain ⟨u, hu⟩ := pcFeed_answers b hs
      exact ⟨u, hu, pcFeed_sound hu hs⟩
  obtain ⟨u, hu, hsu⟩ := hpc
  unfold busFeed
  rw [hu, andThen_of_next]
  cases r with
  | false => exact ⟨u, rfl⟩
  | true => exact raFeed_answers b hsu.ra

theorem consume_answers (x : Input) {s : State} (hs : Sound s) : ∃ t, consume x s = .next t := by
  cases x with
  | upByte b => exact upFeed_answers b hs
  | busByte b p r => exact busFeed_answers b p r hs
  | cfgRead reg => exact runUnit_answers (w := .hostRead reg) (.inl ⟨_, rfl⟩)
  | cfgWrite reg v => exact runUnit_answers (w := .hostWrite reg v) (.inl ⟨_, rfl⟩)
  | reset => exact runUnit_answers (w := .rst) (.inl ⟨_, rfl⟩)

theorem step_of_idle {s : State} (hw : s.cfg.wellFormed = true) (hi : s.inputs = []) : step s = .next s := by
  unfold step stepOnce
  rw [if_pos hw, hi]

/-- Settles O42, one case per kind of transaction: each port machine answers every byte from its own part of the
invariant. -/
theorem soundStatesNeverStop : Obligations.SoundStatesNeverStop := by
  intro s hs
  unfold stepsOn
  cases hi : s.inputs with
  | nil => exact ⟨s, step_of_idle hs.cfg hi⟩
  | cons x rest =>
    rw [step_of_inputs hs.cfg hi]
    exact consume_answers x (sound_withInputs hs rest)

end Sys2Proof.Machine
end

section
/-! One step on one transaction, and the run of an upstream packet: its bytes are stored one by one, and the last one
runs the packet's unit (rules R110 to R113). -/

namespace Sys2Proof.Machine

/-! ### What a machine holds is run -/

theorem andThen_next_right (r : Result) : andThen r .next = r := by cases r <;> rfl

theorem runFetch_single_of_ok (clear : State → State) {w : Wire} {u t : State} {i : Instr}
    (hd : decode u.cfg w = .ok i) (he : exec i u = .next t) : runFetch clear (.single w u) = .next t :=
  (runUnit_of_ok hd).trans he

theorem runFetch_complete_of_ok (clear : State → State) {w : Wire} {u t : State} {i : Instr}
    (hd : decode u.cfg w = .ok i) (he : exec i u = .next t) : runFetch clear (.complete w u) = .next (clear t) := by
  show andThen (runUnit w u) _ = _
  rw [runUnit_of_ok hd, he, andThen_of_next]

/-! ### A bus byte by its routing (rule R150) -/

theorem busFeed_pcOnly (b : Byte) (s : State) : busFeed b true false s = pcFeed b s := andThen_next_right _

theorem busFeed_raOnly (b : Byte) (s : State) : busFeed b false true s = raFeed b s := rfl

theorem busFeed_both {b : Byte} {s u : State} (h : pcFeed b s = .next u) : busFeed b true true s = raFeed b u := by
  show andThen (pcFeed b s) (raFeed b) = _
  rw [h, andThen_of_next]

/-- Settles O54, a clause per port and kind of fetch: the step consumes the transaction, and the machine's fetch is
run. -/
theorem stepRunsDecodedUnit : Obligations.StepRunsDecodedUnit := by
  intro s u t b w i rest hw
  refine ⟨?upByte, ?pcSingle, ?pcComplete, ?raSingle, ?raComplete, ?both, ?host, ?reset⟩
  case upByte =>
    intro hi hf hd he
    rw [step_of_inputs hw hi, consume, upFeed, hf]
    exact runFetch_complete_of_ok uaClear hd he
  case pcSingle =>
    intro hi hf hd he
    rw [step_of_inputs hw hi, consume, busFeed_pcOnly, pcFeed, hf]
    exact runFetch_single_of_ok ibClear hd he
  case pcComplete =>
    intro hi hf hd he
    rw [step_of_inputs hw hi, consume, busFeed_pcOnly, pcFeed, hf]
    exact runFetch_complete_of_ok ibClear hd he
  case raSingle =>
    intro hi hf hd he
    rw [step_of_inputs hw hi, consume, busFeed_raOnly, raFeed, hf]
    exact runFetch_single_of_ok raClear hd he
  case raComplete =>
    intro hi hf hd he
    rw [step_of_inputs hw hi, consume, busFeed_raOnly, raFeed, hf]
    exact runFetch_complete_of_ok raClear hd he
  case both =>
    intro hi hf
    rw [step_of_inputs hw hi, consume, busFeed_both hf]
  case host =>
    rintro reg v (⟨hi, hd⟩ | ⟨hi, hd⟩)
    · exact (step_of_inputs hw hi).trans (runUnit_of_ok (s := { s with inputs := rest }) hd)
    · exact (step_of_inputs hw hi).trans (runUnit_of_ok (s := { s with inputs := rest }) hd)
  case reset =>
    intro hi
    exact (step_of_inputs hw hi).trans (runUnit_of_ok (w := .rst) rfl)

/-- One more step at the end of a run. -/
theorem runSteps_snoc {k : Nat} {s u : State} (h : runSteps k s = .next u) : runSteps (k + 1) s = step u :=
  (runSteps_add k 1 h).trans (andThen_next_right (step u))

/-! ### An upstream packet in the course of its bytes -/

/-- `u` is `s` after the first `k` bytes of the packet `p`: they are stored, the others are still presented, before
`rest`, and nothing but the assembler has changed. -/
structure Received (s : State) (p : List Byte) (rest : List Input) (k : Nat) (u : State) : Prop where
  cnt : u.uaCnt.toNat = k
  len : 0 < k → u.uaLen.toNat = p.length
  bytes : memSlice u.uaBuf k = p.take k
  inputs : u.inputs = (p.drop k).map Input.upByte ++ rest
  frame : u = { s with inputs := u.inputs, uaCnt := u.uaCnt, uaLen := u.uaLen, uaBuf := u.uaBuf }

theorem received_start {s : State} {p : List Byte} {rest : List Input} (hc : s.uaCnt = 0)
    (hi : s.inputs = p.map Input.upByte ++ rest) : Received s p rest 0 s where
  cnt := by rw [hc]; rfl
  len := fun h => absurd h (Nat.lt_irrefl 0)
  bytes := rfl
  inputs := hi
  frame := rfl

/-- A byte written after the first `n` extends them. -/
theorem memSlice_write_succ (m : Memory) (n : Nat) (v : Byte) :
    memSlice (memWrite m n v) (n + 1) = memSlice m n ++ [v] := by
  rw [memSlice_succ, memRead_write, if_pos rfl,
    memSlice_congr _ m n fun i hi => by rw [memRead_write, if_neg (Nat.ne_of_lt hi)]]

section
variable {s u : State} {opc : Byte} {body : List Byte} {rest : List Input} {k : Nat}

/-- The next byte of a packet is stored, and the first one latches the packet's length (rules R111, R112). -/
theorem received_store (hw : s.cfg.wellFormed = true)
    (hl : (upPacketLen s.cfg.up opc).toNat = (opc :: body).length) (h : Received s (opc :: body) rest k u)
    (hk : k < (opc :: body).length) :
    ∃ b xs, u.inputs = .upByte b :: xs ∧
      Received s (opc :: body) rest (k + 1) (uaStore b (uaLatch b { u with inputs := xs })) := by
  obtain ⟨hcnt, hlen, hbytes, hinputs, hframe⟩ := h
  obtain ⟨_, hle⟩ := upPacketLen_bounds hw opc
  have hcfg : u.cfg = s.cfg := by rw [hframe]
  refine ⟨(opc :: body)[k], ((opc :: body).drop (k + 1)).map Input.upByte ++ rest, ?_, ?_⟩
  · rw [hinputs, List.drop_eq_getElem_cons hk]; rfl
  refine ⟨?cnt, fun _ => ?len, ?bytes, ?inputs, ?frame⟩
  case cnt =>
    rw [uaStore_uaCnt, uaLatch_uaCnt]
    bv_omega
  case len =>
    rcases Nat.eq_zero_or_pos k with rfl | hpos
    · have hfirst : u.uaCnt = 0 := BitVec.eq_of_toNat_eq hcnt
      rw [uaStore_uaLen, uaLatch_uaLen_first]
      · exact hcfg ▸ hl
      · exact hfirst
    · have hlater : u.uaCnt ≠ 0 := by bv_omega
      rw [uaStore_uaLen, uaLatch_uaLen_later]
      · exact hlen hpos
      · exact hlater
  case bytes =>
    rw [uaStore_uaBuf, uaLatch_uaBuf, uaLatch_uaCnt]
    show memSlice (memWrite u.uaBuf u.uaCnt.toNat _) (k + 1) = _
    rw [hcnt, memSlice_write_succ, hbytes, List.take_succ_eq_append_getElem hk]
  case inputs => rw [uaStore_inputs, uaLatch_inputs]
  case frame => rw [uaStore_eq, hframe]

/-- The step on a packet's next byte stores it, and on the last byte runs the packet (rules R112, R113). -/
theorem received_step (hw : s.cfg.wellFormed = true)
    (hl : (upPacketLen s.cfg.up opc).toNat = (opc :: body).length) (h : Received s (opc :: body) rest k u)
    (hk : k < (opc :: body).length) :
    ∃ v, Received s (opc :: body) rest (k + 1) v ∧
      ((k + 1 < (opc :: body).length ∧ step u = .next v) ∨
        (k + 1 = (opc :: body).length ∧ step u = runFetch uaClear (.complete (.up (opc :: body)) v))) := by
  obtain ⟨b, xs, hi, hv⟩ := received_store hw hl h hk
  obtain ⟨_, hle⟩ := upPacketLen_bounds hw opc
  have hcnt : u.uaCnt.toNat = k := h.cnt
  have hcnt' : (u.uaCnt + 1).toNat = k + 1 := by simpa using hv.cnt
  have hlen : (uaLatch b { u with inputs := xs }).uaLen.toNat = (opc :: body).length := hv.len (Nat.succ_pos k)
  have hstep : step u = runFetch uaClear (upFetch b { u with inputs := xs }) :=
    step_of_inputs (by rw [h.frame]; exact hw) hi
  refine ⟨_, hv, ?_⟩
  rw [hstep]
  rcases upFetch_cases b { u with inputs := xs } with ⟨hover, _⟩ | ⟨_, hmore, e⟩ | ⟨_, hlast, e⟩
  · have hover' : 11 ≤ u.uaCnt.toNat := hover
    bv_omega
  · refine .inl ⟨lt_of_le_of_ne hk fun heq => hmore (BitVec.eq_of_toNat_eq ?_), by rw [e]; rfl⟩
    rw [hlen, ← heq]
    exact hcnt'
  · have hend : k + 1 = (opc :: body).length := by rw [← hlen, ← hlast]; exact hcnt'.symm
    have hpacket : uaPacket (uaStore b (uaLatch b { u with inputs := xs })) = opc :: body := by
      rw [uaPacket, uaStore_uaLen, hlen, ← hend, hv.bytes, hend, List.take_length]
    exact .inr ⟨hend, by rw [e, hpacket]⟩

/-- After `k` steps short of all, the first `k` bytes are stored and nothing but the assembler has changed. -/
theorem runSteps_received (hw : s.cfg.wellFormed = true) (hc : s.uaCnt = 0)
    (hl : (upPacketLen s.cfg.up opc).toNat = (opc :: body).length)
    (hi : s.inputs = (opc :: body).map Input.upByte ++ rest) :
    ∀ k, k < (opc :: body).length → ∃ u, runSteps k s = .next u ∧ Received s (opc :: body) rest k u := by
  intro k
  induction k with
  | zero => exact fun _ => ⟨s, rfl, received_start hc hi⟩
  | succ k ih =>
    intro hk
    obtain ⟨u, hrun, hu⟩ := ih (Nat.lt_of_succ_lt hk)
    obtain ⟨v, hv, ⟨_, hstep⟩ | ⟨hend, _⟩⟩ := received_step hw hl hu (Nat.lt_of_succ_lt hk)
    · exact ⟨v, (runSteps_snoc hrun).trans hstep, hv⟩
    · exact absurd hend (Nat.ne_of_lt hk)

end

/-- Settles O51: by induction the bytes short of the last are stored one by one, and the step on the last byte runs the
packet's unit, which decodes because the packet has its table length. -/
theorem upstreamPacketIsDispatchedOnce : Obligations.UpstreamPacketIsDispatchedOnce := by
  intro s opc body rest hw hc hl hi
  have hrun := runSteps_received hw hc hl hi
  refine ⟨fun k hk => ?before, ?after⟩
  case before =>
    obtain ⟨u, hu, hrec⟩ := hrun k hk
    exact ⟨u, hu, hrec.cnt, hrec.frame⟩
  case after =>
    obtain ⟨u, hu, hrec⟩ := hrun body.length (Nat.lt_succ_self _)
    obtain ⟨v, hv, ⟨hlt, _⟩ | ⟨_, hstep⟩⟩ := received_step hw hl hrec (Nat.lt_succ_self _)
    · exact absurd hlt (Nat.lt_irrefl _)
    obtain ⟨i, hd⟩ := decode_up_of_length hw hl
    obtain ⟨t, ht⟩ := exec_answers i v
    have hinputs : v.inputs = rest := by rw [hv.inputs]; simp
    have hcfg : v.cfg = s.cfg := by rw [hv.frame]
    refine ⟨i, v, t, hd, hv.bytes.trans (List.take_length (l := opc :: body)), hinputs ▸ hv.frame, ht, ?_⟩
    calc runSteps (opc :: body).length s
      _ = step u := runSteps_snoc hu
      _ = runFetch uaClear (.complete (.up (opc :: body)) v) := hstep
      _ = .next (uaClear t) := runFetch_complete_of_ok uaClear (hcfg ▸ hd) ht

end Sys2Proof.Machine
end

section
/-! The upstream commands that are answered at once and never reach the bus: the no-ops (rules R123, R124), the version
query (rule R132) and the unrecognised commands (rules R133, R134). -/

namespace Sys2Proof.Machine

variable (s : State)

/-! ### What an emission answers -/

theorem answersUp_emitUp (p : List Byte) : answersUp s (.next (emitUp p s)) p := rfl

/-- A raised condition answers its status byte and changes nothing else (rule R224). -/
theorem answersUp_raiseCond (x : Cond) : answersUp s (.next (raiseCond x s)) [condCode s.cfg.rsp x] :=
  congrArg Host.Outcome.next (raiseCond_eq x s)

/-! ### The meaning of each unit -/

theorem exec_upNop (opc : Byte) : exec (.upNop opc) s = .next (emitUp [s.cfg.rsp.ok] s) := rfl

theorem exec_upNopCrlf (opc : Byte) :
    exec (.upNopCrlf opc) s = .next (emitUp [s.cfg.rsp.ok, s.cfg.rsp.eol0, s.cfg.rsp.eol1] s) := rfl

theorem exec_upUnsupported (opc : Byte) (rest : List Byte) :
    exec (.upUnsupported opc rest) s = .next (raiseCond .notSupported s) := rfl

theorem exec_upOutOfRange (b : Byte) : exec (.upOutOfRange b) s = .next (raiseCond .notSupported s) := rfl

theorem exec_upFwVer (opc : Byte) :
    exec (.upFwVer opc) s = .next (emitUp (upClassOf s.cfg.up opc).verBytes s) := rfl

/-- The version query of an opcode whose class is FW_VER emits the version bytes of that class. -/
theorem exec_upFwVer_of_class {opc v0 v1 v2 : Byte} (h : upClassOf s.cfg.up opc = .fwVer v0 v1 v2) :
    exec (.upFwVer opc) s = .next (emitUp [v0, v1, v2] s) := by
  rw [exec_upFwVer, h, UpClass.verBytes]

end Sys2Proof.Machine
end

section
/-! The answers of the no-ops, of the unrecognised commands and of the version query. -/

namespace Sys2Proof.Machine

/-- Settles O8: each no-op is one emission. -/
theorem noOpAnswers : Obligations.NoOpAnswers := by
  intro s opc
  constructor
  · rw [exec_upNop]
    exact answersUp_emitUp s _
  · rw [exec_upNopCrlf]
    exact answersUp_emitUp s _

/-- Settles O9: both units raise `NotSupported`, whose code is `RSP_NOT_SUPPORTED`. -/
theorem unrecognisedAnswers : Obligations.UnrecognisedAnswers := by
  intro s opc rest
  constructor
  · rw [exec_upUnsupported]
    exact answersUp_raiseCond s .notSupported
  · rw [exec_upOutOfRange]
    exact answersUp_raiseCond s .notSupported

/-- Settles O10: the class of the opcode gives the three bytes emitted. -/
theorem firmwareVersionAnswer : Obligations.FirmwareVersionAnswer := by
  intro s opc v0 v1 v2 hclass
  rw [exec_upFwVer_of_class s hclass]
  exact answersUp_emitUp s _

end Sys2Proof.Machine
end

section
/-! The 7-bit halves of a 16-bit value in numbers (rule R91). -/

namespace Sys2Proof

/-- The mask of a 7-bit half is the remainder by 128. -/
theorem and_7F_toNat (v : Word16) : (v &&& 0x7F).toNat = v.toNat % 128 := by
  rw [BitVec.toNat_and]
  exact Nat.and_two_pow_sub_one_eq_mod v.toNat 7

theorem lo7_toNat (v : Word16) : (lo7 v).toNat = v.toNat % 128 := by
  rw [lo7, BitVec.toNat_setWidth, and_7F_toNat]
  omega

theorem hi7_toNat (v : Word16) : (hi7 v).toNat = v.toNat / 128 % 128 := by
  rw [hi7, BitVec.toNat_setWidth, and_7F_toNat, BitVec.toNat_ushiftRight, Nat.shiftRight_eq_div_pow]
  omega

end Sys2Proof
end

section
/-! What a poll of this node answers: the staged frames (rule R153), the key and speed (rule R154), the accessory
halves (rule R155), or nothing (rule R152). -/

namespace Sys2Proof.Machine

/-! ### The staged frames -/

/-- What `FLUSH` transmits, in the words of the statements: the five bytes of each slot whose count is not 0. -/
theorem flush_slotBytes (s : State) :
    flush s =
      { s with
        busTx := s.busTx ++ (if s.tx0.cnt = 0 then [] else [slotBytes s.tx0]) ++
          (if s.tx1.cnt = 0 then [] else [slotBytes s.tx1])
        tx0 := { s.tx0 with cnt := 0 }
        tx1 := { s.tx1 with cnt := 0 } } := by
  have sent : ∀ t : TxSlot,
      (if pending t then [slotFrame t] else []) = if t.cnt = 0 then [] else [slotBytes t] := by
    intro t
    by_cases h : t.cnt = 0 <;> simp [pending, h, slotFrame_eq, slotBytes]
  rw [flush_eq, sent, sent]

/-- Settles O20: the poll of a node that flushes, with some slot pending, is the flush. -/
theorem pollTurnFlushesStagedFrames : Obligations.PollTurnFlushesStagedFrames := by
  intro s a h0 ha hf hp
  have hpending : anyPending s = true := (anyPending_iff s).2 hp
  rw [exec_poll, pollTurn_flushes h0 ha hf hpending, flush_slotBytes]
  rfl

/-! ### Nodes of a type that does not flush -/

/-- A node that does not flush reports its accessory inputs, or stays silent (rule R152). -/
theorem pollTurn_of_not_flushes {s : State} {a : BitVec 6} (h0 : a ≠ 0) (ha : a = s.cabAddr) (hf : ¬ flushes s) :
    pollTurn a s = if s.cabType = s.cfg.dev.cabTypeAiu then pushAiu (addressed s) else addressed s := by
  have hflush : ¬ flushingType (addressed s).cfg.dev (addressed s).cabType = true :=
    fun h => hf ((flushingType_iff s).1 h)
  rw [pollTurn_addressed h0 ha, pollReact, if_neg hflush]
  exact if_congr beq_iff_eq rfl rfl

/-! ### The accessory halves -/

/-- The accessory report in numbers: `aiu` has 14 bits, so its high half needs no reduction (rule R155). -/
theorem pushAiu_eq (s : State) :
    pushAiu s =
      { s with
        busTx := s.busTx ++ [[BitVec.ofNat 8 (s.aiu.toNat % 128), BitVec.ofNat 8 (s.aiu.toNat / 128)]] } := by
  have hlo : lo7 (s.aiu.setWidth 16) = BitVec.ofNat 8 (s.aiu.toNat % 128) := by
    apply BitVec.eq_of_toNat_eq
    rw [lo7_toNat, BitVec.toNat_setWidth, BitVec.toNat_ofNat]
    omega
  have hhi : hi7 (s.aiu.setWidth 16) = BitVec.ofNat 8 (s.aiu.toNat / 128) := by
    apply BitVec.eq_of_toNat_eq
    rw [hi7_toNat, BitVec.toNat_setWidth, BitVec.toNat_ofNat]
    omega
  rw [pushAiu, hlo, hhi, emitBus]

/-- Settles O21, a clause per kind of node. -/
theorem pollTurnWithoutFlush : Obligations.PollTurnWithoutFlush := by
  intro s a h0 ha
  refine ⟨?keySpeed, ?smart, ?aiu, ?other⟩
  case keySpeed =>
    intro hf htx0 htx1 hsmart
    rw [exec_poll, pollTurn_reportsKey h0 ha hf hsmart htx0 htx1, pushKeySpeed_eq]
    rfl
  case smart =>
    intro _ htx0 htx1 hsmart
    rw [exec_poll, pollTurn_smart_silent h0 ha hsmart htx0 htx1]
  case aiu =>
    intro hf haiu
    rw [exec_poll, pollTurn_of_not_flushes h0 ha hf, if_pos haiu, pushAiu_eq]
    rfl
  case other =>
    intro hf haiu
    rw [exec_poll, pollTurn_of_not_flushes h0 ha hf, if_neg haiu]

end Sys2Proof.Machine
end

section
/-! Bytes that are no unit of a table: their meanings answer the state itself (rules R158, R159, R191). -/

namespace Sys2Proof.Machine

theorem exec_ibUnknown (m : IbMode) (b : Byte) (s : State) : exec (.ibUnknown m b) s = .next s := rfl

theorem exec_ibIgnored (b : Byte) (s : State) : exec (.ibIgnored b) s = .next s := rfl

theorem exec_replyNone (b : Byte) (s : State) : exec (.replyNone b) s = .next s := rfl

/-- Settles O33. -/
theorem unmatchedBytesChangeNothing : Obligations.UnmatchedBytesChangeNothing :=
  fun s m b => ⟨exec_ibUnknown m b s, exec_ibIgnored b s, exec_replyNone b s⟩

end Sys2Proof.Machine
end

section
/-! Bytes at both bus machines (rule R150): fed one by one, each to the poll/command machine and then, if it is routed
there too, to the reply assembler, they come to what the two machines make of all the bytes in turn. -/

namespace Sys2Proof.Machine

/-! ### Bytes one after the other -/

/-- One more byte at the end of a run of bytes. -/
theorem feedAll_take_succ {f : Byte → State → Result} {p : List Byte} {s u : State} {k : Nat} (hk : k < p.length)
    (h : feedAll f (p.take k) s = .next u) : feedAll f (p.take (k + 1)) s = f p[k] u := by
  rw [List.take_succ_eq_append_getElem hk, feedAll_append f _ _ h]
  exact andThen_next_right _

/-! ### Bytes routed to the other machine or not -/

theorem alsoFeed_nil (also : Bool) (feed : Byte → State → Result) (s : State) : alsoFeed also feed [] s = .next s := by
  cases also <;> rfl

theorem alsoFeed_cons (also : Bool) (feed : Byte → State → Result) (b : Byte) (p : List Byte) (s : State) :
    alsoFeed also feed (b :: p) s = andThen (alsoFeed also feed [b] s) (alsoFeed also feed p) := by
  cases also with
  | false => rfl
  | true => exact congrArg (fun r => andThen r (feedAll feed p)) (andThen_next_right (feed b s)).symm

theorem busFeed_alsoFeed (b : Byte) (also : Bool) (s : State) :
    busFeed b true also s = andThen (pcFeed b s) (alsoFeed also raFeed [b]) := by
  cases also with
  | false => rfl
  | true => exact congrArg (andThen (pcFeed b s)) (funext fun t => (andThen_next_right (raFeed b t)).symm)

/-! ### What the reply assembler makes of several bytes -/

theorem replyAgree_of_pcFrame {s t : State} (h : pcFrame s t) : replyAgree s t := by
  rw [show t = _ from h]
  exact ⟨rfl, rfl, rfl, rfl, rfl, rfl⟩

theorem replyOf_of_agree {s x : State} (h : replyAgree s x) : replyOf s x = x := by
  obtain ⟨_, hup, hactive, hsize, hcnt, hbuf⟩ := h
  rw [replyOf, ← hup, ← hactive, ← hsize, ← hcnt, ← hbuf]

theorem feedAll_raFeed_reads {p : List Byte} {s t : State} (h : feedAll raFeed p s = .next t) {x : State}
    (ha : replyAgree s x) : feedAll raFeed p x = .next (replyOf t x) := by
  induction p generalizing s x with
  | nil => cases h; rw [replyOf_of_agree ha]; rfl
  | cons b p ih =>
    obtain ⟨v, hv, h⟩ := andThen_next h
    have hcfg : v.cfg = s.cfg := by rw [show v = _ from raFeed_frame hv]
    have hagree : replyAgree v (replyOf v x) := ⟨ha.1.trans hcfg.symm, rfl, rfl, rfl, rfl, rfl⟩
    show andThen (raFeed b x) (feedAll raFeed p) = _
    rw [raFeed_reads hv x ha, andThen_of_next]
    exact ih h hagree

theorem alsoFeed_raFeed_reads {also : Bool} {p : List Byte} {s t : State} (h : alsoFeed also raFeed p s = .next t)
    {x : State} (ha : replyAgree s x) : alsoFeed also raFeed p x = .next (replyOf t x) := by
  cases also with
  | false => cases h; rw [replyOf_of_agree ha]; rfl
  | true => exact feedAll_raFeed_reads h ha

theorem alsoFeed_replyFrame {also : Bool} {p : List Byte} {s t : State} (h : alsoFeed also raFeed p s = .next t) :
    replyFrame s t := by
  cases also with
  | false => cases h; rfl
  | true => exact feedAll_replyFrame h

theorem sound_raPart {s : State} (h : Sound s) : raPart s := by
  obtain ⟨_, _, _, _, hra, _⟩ := (sound_iff s).1 h
  exact hra

/-- The reply assembler's part of the invariant carries it over any byte. -/
theorem alsoFeed_single_answers (also : Bool) (b : Byte) {s : State} (hs : also = true → raPart s) :
    ∃ t, alsoFeed also raFeed [b] s = .next t ∧ (also = true → raPart t) := by
  cases also with
  | false => exact ⟨s, rfl, hs⟩
  | true =>
    obtain ⟨t, ht⟩ := raFeed_answers b (hs rfl).1
    exact ⟨t, (andThen_next_right (raFeed b s)).trans ht, fun _ => raFeed_raPart ht (hs rfl)⟩

/-! ### What the poll/command machine makes of several bytes -/

theorem feedAll_pcFeed_reads {p : List Byte} {s t : State} (xs : List Input) (r : State)
    (h : feedAll pcFeed p s = .next t) :
    feedAll pcFeed p (replyInputsOf xs r s) = .next (replyInputsOf xs r t) := by
  induction p generalizing s with
  | nil => cases h; rfl
  | cons b p ih =>
    obtain ⟨v, hv, h⟩ := andThen_next h
    show andThen (pcFeed b _) (feedAll pcFeed p) = _
    rw [pcFeed_reads xs r hv, andThen_of_next]
    exact ih h

/-! ### The steps on bus bytes -/

/-- The steps on bytes routed to the poll/command machine answer what the reply assembler, where it is fed too, makes of
these bytes from what the poll/command machine makes of them alone. -/
theorem runSteps_busBytes {also : Bool} {p : List Byte} {rest : List Input} {s t : State}
    (hw : s.cfg.wellFormed = true) (hra : also = true → raPart s)
    (hi : s.inputs = p.map (fun b => Input.busByte b true also) ++ rest)
    (h : feedAll pcFeed p { s with inputs := rest } = .next t) :
    ∃ w, alsoFeed also raFeed p t = .next w ∧ runSteps p.length s = .next w := by
  induction p generalizing s t with
  | nil =>
    cases h
    have hrest : s.inputs = rest := hi
    exact ⟨s, by rw [alsoFeed_nil, ← hrest], rfl⟩
  | cons b p ih =>
    have hframe : pcFrame { s with inputs := rest } t := feedAll_pcFrame h
    obtain ⟨v, hv, h⟩ := andThen_next h
    have hvframe : pcFrame { s with inputs := rest } v := pcFeed_frame hv
    have hvcfg : v.cfg = s.cfg := by rw [show v = _ from hvframe]
    rw [List.map_cons, List.cons_append] at hi
    generalize hxs : p.map (fun b => Input.busByte b true also) ++ rest = xs at hi
    have hpc := pcFeed_reads xs s hv
    obtain ⟨w, hreply, hra'⟩ := alsoFeed_single_answers also b (s := replyInputsOf xs s v) hra
    have hwframe : w = _ := alsoFeed_replyFrame hreply
    have hstep : step s = .next w := by
      rw [step_of_inputs hw hi, consume, busFeed_alsoFeed]
      exact (congrArg (fun r => andThen r _) hpc).trans hreply
    have hnext : feedAll pcFeed p { w with inputs := rest } = .next (replyInputsOf rest w t) := by
      have hstart : { w with inputs := rest } = replyInputsOf rest w v := by rw [hwframe]; rfl
      rw [hstart]
      exact feedAll_pcFeed_reads rest w h
    have hinputs : replyInputsOf rest w t = replyOf w t := by
      have ht : t.inputs = rest := by rw [show t = _ from hframe]
      rw [replyInputsOf, ← ht]
      rfl
    obtain ⟨w', hw', hrun⟩ := ih (by rw [hwframe]; exact hvcfg ▸ hw) hra' (by rw [hwframe, hxs]; rfl) hnext
    have hagree : replyAgree (replyInputsOf xs s v) t := by
      obtain ⟨hcfg, hregs⟩ := replyAgree_of_pcFrame hframe
      exact ⟨hcfg.trans hvcfg.symm, hregs⟩
    refine ⟨w', ?_, (runSteps_succ p.length hstep).trans hrun⟩
    rw [alsoFeed_cons, alsoFeed_raFeed_reads hreply hagree, andThen_of_next, ← hinputs, hw']

end Sys2Proof.Machine
end

section
/-! The run of an inbound command: its bytes are stored adjusted, one by one, and the last one runs the command (rules
R156, R157). -/

namespace Sys2Proof.Machine

/-! ### An inbound command in the course of its bytes -/

/-- The bytes of an inbound command as the buffer holds them (rule R156). -/
def storedBytes (c : IbCfg) (p : List Byte) : List Byte := p.mapIdx (storedByte c)

theorem storedBytes_length (c : IbCfg) (p : List Byte) : (storedBytes c p).length = p.length := List.length_mapIdx

theorem storedBytes_getElem (c : IbCfg) {p : List Byte} {k : Nat} (hk : k < p.length) :
    (storedBytes c p)[k]'((storedBytes_length c p).symm ▸ hk) = storedByte c k p[k] := List.getElem_mapIdx

/-- The first stored byte is the opcode as received (rule R16). -/
theorem storedBytes_cons {c : Cfg} (hw : c.wellFormed = true) (opc : Byte) (body : List Byte) :
    ∃ stored, storedBytes c.ib (opc :: body) = opc :: stored ∧ stored.length = body.length := by
  refine ⟨body.mapIdx fun i => storedByte c.ib (i + 1), ?_, List.length_mapIdx⟩
  rw [storedBytes, List.mapIdx_cons]
  exact congrArg (· :: _) (storedByte_opcode hw (cnt := 0#1) rfl opc)

/-- `u` is `s` after the first `k` bytes of the inbound command `p` at the poll/command machine: they are stored, and
nothing but the inbound buffer has changed. -/
structure Collected (s : State) (p : List Byte) (k : Nat) (u : State) : Prop where
  cnt : u.ibCnt.toNat = k
  len : 0 < k → u.ibLen.toNat = p.length
  bytes : memSlice u.ibBuf k = (storedBytes s.cfg.ib p).take k
  frame : u = { s with ibCnt := u.ibCnt, ibLen := u.ibLen, ibBuf := u.ibBuf }

theorem collected_start {s : State} (p : List Byte) (hc : s.ibCnt = 0) : Collected s p 0 s where
  cnt := by rw [hc]; rfl
  len := fun h => absurd h (Nat.lt_irrefl 0)
  bytes := rfl
  frame := rfl

section
variable {s u : State} {opc : Byte} {body : List Byte} {k : Nat}

variable (hl : (ibLen s.cfg.ib (ibModeOf s.cabState) opc).toNat = (opc :: body).length)
include hl

/-- The next byte of a command is stored adjusted, and the first one latches the command's length (rule R156). -/
theorem collected_store (hw : s.cfg.wellFormed = true) (h : Collected s (opc :: body) k u)
    (hk : k < (opc :: body).length) :
    Collected s (opc :: body) (k + 1) (ibStore (opc :: body)[k] (ibLatch (opc :: body)[k] u)) := by
  obtain ⟨hcnt, hlen, hbytes, hframe⟩ := h
  have hle := ibLen_le hw (ibModeOf s.cabState) opc
  have hcab : u.cabState = s.cabState := by rw [hframe]
  have hcfg : u.cfg = s.cfg := by rw [hframe]
  refine ⟨?cnt, fun _ => ?len, ?bytes, ?frame⟩
  case cnt =>
    rw [ibStore_ibCnt, ibLatch_ibCnt]
    bv_omega
  case len =>
    rw [ibStore_ibLen]
    rcases Nat.eq_zero_or_pos k with rfl | hpos
    · have hfirst : u.ibCnt = 0 := BitVec.eq_of_toNat_eq hcnt
      rw [ibLatch_ibLen_first _ hfirst, hcfg, hcab]
      exact hl
    · have hlater : u.ibCnt ≠ 0 := by bv_omega
      rw [ibLatch_ibLen_later _ hlater]
      exact hlen hpos
  case bytes =>
    have hk' : k < (storedBytes s.cfg.ib (opc :: body)).length := by rw [storedBytes_length]; exact hk
    rw [ibStore_ibBuf, ibLatch_ibBuf, ibLatch_ibCnt, ibLatch_cfg, hcfg, hcnt, memSlice_write_succ, hbytes,
      List.take_succ_eq_append_getElem hk', storedBytes_getElem _ hk]
  case frame => rw [ibStore_eq, hframe]

variable (he : executing s.cabState = true) (hp : ∀ b ∈ opc :: body, isPoll b = false)
include he hp

/-- No byte of a command is a unit by itself (rules R151, R158, R159). -/
theorem collected_pcSingle (h : Collected s (opc :: body) k u) (hk : k < (opc :: body).length) :
    pcSingle (opc :: body)[k] u = false := by
  obtain ⟨hcnt, _, _, hframe⟩ := h
  have hpoll := hp _ (List.getElem_mem hk)
  have hcab : u.cabState = s.cabState := by rw [hframe]
  have hcfg : u.cfg = s.cfg := by rw [hframe]
  have hlen : (u.ibCnt == 0 && ibLen s.cfg.ib (ibModeOf s.cabState) (opc :: body)[k] == 0) = false := by
    rcases Nat.eq_zero_or_pos k with rfl | hpos
    · have hne : ibLen s.cfg.ib (ibModeOf s.cabState) opc ≠ 0 := fun e => by rw [e] at hl; cases hl
      exact Bool.and_eq_false_iff.2 (.inr (beq_eq_false_iff_ne.2 hne))
    · have hlater : u.ibCnt ≠ 0 := by bv_omega
      exact Bool.and_eq_false_iff.2 (.inl (beq_eq_false_iff_ne.2 hlater))
  rw [pcSingle, hcab, hcfg, hpoll, he, hlen]
  rfl

variable (hw : s.cfg.wellFormed = true)
include hw

/-- The next byte of a command is stored, and on the last byte the command is run (rules R156, R157). -/
theorem collected_feed (h : Collected s (opc :: body) k u) (hk : k < (opc :: body).length) :
    ∃ v, Collected s (opc :: body) (k + 1) v ∧
      ((k + 1 < (opc :: body).length ∧ pcFeed (opc :: body)[k] u = .next v) ∨
        (k + 1 = (opc :: body).length ∧ pcFeed (opc :: body)[k] u =
          runFetch ibClear (.complete (.pc s.cabState (storedBytes s.cfg.ib (opc :: body))) v))) := by
  have hv := collected_store hl hw h hk
  have hsingle := collected_pcSingle hl he hp h hk
  have hle := ibLen_le hw (ibModeOf s.cabState) opc
  have hcnt : u.ibCnt.toNat = k := h.cnt
  have hcab : u.cabState = s.cabState := by rw [h.frame]
  refine ⟨_, hv, ?_⟩
  generalize (opc :: body)[k] = b at hv hsingle ⊢
  have hcnt' : (u.ibCnt + 1).toNat = k + 1 := by simpa using hv.cnt
  have hlen : (ibLatch b u).ibLen.toNat = (opc :: body).length := hv.len (Nat.succ_pos k)
  unfold pcFeed
  rcases pcFetch_cases b u with ⟨hs, _⟩ | ⟨_, hover, _⟩ | ⟨_, _, hmore, e⟩ | ⟨_, _, hlast, e⟩
  · rw [hsingle] at hs; cases hs
  · have hover' : 9 ≤ u.ibCnt.toNat := hover
    bv_omega
  · refine .inl ⟨lt_of_le_of_ne hk fun heq => hmore (BitVec.eq_of_toNat_eq ?_), by rw [e]; rfl⟩
    rw [hlen, ← heq]
    exact hcnt'
  · have hend : k + 1 = (opc :: body).length := by rw [← hlen, ← hlast]; exact hcnt'.symm
    have hframe : ibFrame (ibStore b (ibLatch b u)) = storedBytes s.cfg.ib (opc :: body) := by
      rw [ibFrame, ibStore_ibLen, hlen, ← hend, hv.bytes, hend, ← storedBytes_length s.cfg.ib, List.take_length]
    exact .inr ⟨hend, by rw [e, hframe, hcab]⟩

/-- The first `k` bytes, short of all, are stored, and nothing but the inbound buffer has changed. -/
theorem feedAll_collected (hc : s.ibCnt = 0) :
    ∀ k, k < (opc :: body).length →
      ∃ u, feedAll pcFeed ((opc :: body).take k) s = .next u ∧ Collected s (opc :: body) k u := by
  intro k
  induction k with
  | zero => exact fun _ => ⟨s, rfl, collected_start _ hc⟩
  | succ k ih =>
    intro hk
    obtain ⟨u, hrun, hu⟩ := ih (Nat.lt_of_succ_lt hk)
    obtain ⟨v, hv, ⟨_, hfeed⟩ | ⟨hend, _⟩⟩ := collected_feed hl he hp hw hu (Nat.lt_of_succ_lt hk)
    · exact ⟨v, (feedAll_take_succ _ hrun).trans hfeed, hv⟩
    · exact absurd hend (Nat.ne_of_lt hk)

/-- All bytes of a command at the poll/command machine: the command as stored is run once, on its last byte, and the
buffer is then empty (rule R157). -/
theorem feedAll_command (hc : s.ibCnt = 0) :
    ∃ v t, Collected s (opc :: body) (opc :: body).length v ∧
      runUnit (.pc s.cabState (storedBytes s.cfg.ib (opc :: body))) v = .next t ∧
      feedAll pcFeed (opc :: body) s = .next (ibClear t) := by
  have hlast : body.length < (opc :: body).length := Nat.lt_succ_self _
  obtain ⟨u, hrun, hu⟩ := feedAll_collected hl he hp hw hc body.length hlast
  obtain ⟨v, hv, ⟨hlt, _⟩ | ⟨_, hfeed⟩⟩ := collected_feed hl he hp hw hu hlast
  · exact absurd hlt (Nat.lt_irrefl _)
  obtain ⟨stored, hstored, hlen⟩ := storedBytes_cons hw opc body
  have hcfg : v.cfg = s.cfg := by rw [hv.frame]
  obtain ⟨t, ht⟩ : ∃ t, runUnit (.pc s.cabState (storedBytes s.cfg.ib (opc :: body))) v = .next t := by
    apply runUnit_answers
    rw [hstored, hcfg, decode_pc_executing stored he (hp opc List.mem_cons_self)]
    exact decodeIb_of_length hw (hl.trans (congrArg (· + 1) hlen.symm))
  refine ⟨v, t, hv, ht, ?_⟩
  calc feedAll pcFeed (opc :: body) s
    _ = feedAll pcFeed ((opc :: body).take (body.length + 1)) s :=
      congrArg (feedAll pcFeed · s) (List.take_length (l := opc :: body)).symm
    _ = pcFeed (opc :: body)[body.length] u := feedAll_take_succ hlast hrun
    _ = runFetch ibClear (.complete (.pc s.cabState (storedBytes s.cfg.ib (opc :: body))) v) := hfeed
    _ = .next (ibClear t) := congrArg (andThen · fun t => .next (ibClear t)) ht

end

/-- Settles O52: the poll/command machine alone stores the bytes one by one and runs the command on the last one; the
steps add what the reply assembler makes of the same bytes. -/
theorem inboundCommandIsDispatchedOnce : Obligations.InboundCommandIsDispatchedOnce := by
  intro s opc body both rest hw hc he hp hl hsound hi
  have hra : both = true → raPart s := fun h => sound_raPart (hsound h)
  refine ⟨fun k hk => ?before, ?after⟩
  case before =>
    obtain ⟨u, hu, hcol⟩ := feedAll_collected (s := { s with inputs := s.inputs.drop k }) hl he hp hw hc k hk
    have hsplit : s.inputs = ((opc :: body).take k).map (fun b => Input.busByte b true both) ++ s.inputs.drop k := by
      conv_lhs => rw [← List.take_append_drop k s.inputs]
      rw [hi, List.take_append_of_le_length (by rw [List.length_map]; exact hk.le), List.map_take]
    obtain ⟨w, hw', hrun⟩ := runSteps_busBytes hw hra hsplit hu
    rw [List.length_take_of_le hk.le] at hrun
    exact ⟨u, w, hcol.cnt, hcol.frame, hw', alsoFeed_replyFrame hw', hrun⟩
  case after =>
    obtain ⟨v, t, hcol, hunit, hfeed⟩ := feedAll_command (s := { s with inputs := rest }) hl he hp hw hc
    obtain ⟨w, hw', hrun⟩ := runSteps_busBytes hw hra hi hfeed
    have hunits := runUnit_next hunit
    rw [show v.cfg = s.cfg by rw [hcol.frame]] at hunits
    refine ⟨v, t, w, ?_, hcol.frame, hunits, hw', alsoFeed_replyFrame hw', hrun⟩
    rw [hcol.bytes, ← storedBytes_length s.cfg.ib, List.take_length]
    rfl

end Sys2Proof.Machine
end

section
/-! The reply fields in numbers (rules R96 to R98), the mapped status (rule R99), and the packets of the three replies
(rules R194 to R197). -/

namespace Sys2Proof.Machine

/-! ### The values -/

/-- The low `n` bits of a byte as a number: the mask is the remainder by `2 ^ n`. -/
theorem and_lowMask_toNat (x : Byte) (n : Nat) {m : Byte} (hm : m.toNat = 2 ^ n - 1) :
    (x &&& m).toNat = x.toNat % 2 ^ n := by
  rw [BitVec.toNat_and, hm, Nat.and_two_pow_sub_one_eq_mod]

/-- Two fragments joined, the more significant one shifted past the bits of the other: the two share no bit. -/
theorem shiftLeft_or_eq_ofNat (x y : Byte) {n : Nat} (hy : y.toNat < 2 ^ n) :
    (x <<< n) ||| y = BitVec.ofNat 8 (x.toNat * 2 ^ n + y.toNat) := by
  have hsum : x.toNat * 2 ^ n + y.toNat = x.toNat <<< n ||| y.toNat := by
    rw [Nat.mul_comm, Nat.two_pow_add_eq_or_of_lt hy, Nat.shiftLeft_eq, Nat.mul_comm]
  rw [hsum, BitVec.ofNat_or, BitVec.ofNat_toNat, BitVec.setWidth_eq]
  refine congrArg (· ||| y) (BitVec.eq_of_toNat_eq ?_)
  rw [BitVec.toNat_shiftLeft, BitVec.toNat_ofNat]

theorem unp26_eq (x y : Byte) : unp26 x y = BitVec.ofNat 8 (x.toNat % 4 * 64 + y.toNat % 64) := by
  have hx : (x &&& 0x03).toNat = x.toNat % 2 ^ 2 := and_lowMask_toNat x 2 rfl
  have hy : (y &&& 0x3F).toNat = y.toNat % 2 ^ 6 := and_lowMask_toNat y 6 rfl
  rw [unp26, shiftLeft_or_eq_ofNat _ _ (by omega), hx, hy]
  rfl

theorem unp44_eq (x y : Byte) : unp44 x y = BitVec.ofNat 8 (x.toNat % 16 * 16 + y.toNat / 4 % 16) := by
  have hx : (x &&& 0x0F).toNat = x.toNat % 2 ^ 4 := and_lowMask_toNat x 4 rfl
  have hy : ((y >>> 2) &&& 0x0F).toNat = y.toNat / 2 ^ 2 % 2 ^ 4 := by
    rw [and_lowMask_toNat _ 4 rfl, BitVec.toNat_ushiftRight, Nat.shiftRight_eq_div_pow]
  rw [unp44, shiftLeft_or_eq_ofNat _ _ (by omega), hx, hy]
  rfl

theorem unp62_eq (x y : Byte) : unp62 x y = BitVec.ofNat 8 (x.toNat % 64 * 4 + y.toNat / 16 % 4) := by
  have hx : (x &&& 0x3F).toNat = x.toNat % 2 ^ 6 := and_lowMask_toNat x 6 rfl
  have hy : ((y >>> 4) &&& 0x03).toNat = y.toNat / 2 ^ 4 % 2 ^ 2 := by
    rw [and_lowMask_toNat _ 2 rfl, BitVec.toNat_ushiftRight, Nat.shiftRight_eq_div_pow]
  rw [unp62, shiftLeft_or_eq_ofNat _ _ (by omega), hx, hy]
  rfl

/-! ### The status -/

theorem replyStatus_toNat (r1 : Byte) : (replyStatus r1).toNat = r1.toNat / 16 % 4 := by
  rw [replyStatus, BitVec.extractLsb'_toNat, Nat.shiftRight_eq_div_pow]

/-- The map of the status on the values its two bits can take. -/
theorem statusMap_eq_statusByte (r : RspCfg) {k : Fin 5} (hk : k.val < 4) : statusMap r k = statusByte r k.val := by
  match k, hk with
  | 0, _ | 1, _ | 2, _ | 3, _ => rfl

theorem replyCode_eq_statusByte (r : RspCfg) (r1 : Byte) : replyCode r r1 = statusByte r (r1.toNat / 16 % 4) := by
  rw [← replyStatus_toNat]
  exact statusMap_eq_statusByte r (replyStatus r1).isLt

/-! ### The units -/

theorem exec_replyD8 (r1 r2 : Byte) (s : State) :
    exec (.replyD8 r1 r2) s = .next (emitUp (unpD8 r1 r2 ++ [replyCode s.cfg.rsp r1]) s) := rfl

theorem exec_replyD9 (r1 r2 r3 : Byte) (s : State) :
    exec (.replyD9 r1 r2 r3) s = .next (emitUp (unpD9 r1 r2 r3 ++ [replyCode s.cfg.rsp r1]) s) := rfl

theorem exec_replyDA (r1 r2 r3 r4 r5 r6 : Byte) (s : State) :
    exec (.replyDA r1 r2 r3 r4 r5 r6) s =
      .next (emitUp (unpDA r1 r2 r3 r4 r5 r6 ++ [replyCode s.cfg.rsp r1]) s) := rfl

/-- Settles O25: each reply emits its unpacked values and the mapped status, here read as numbers. -/
theorem replyPacketsCarryValuesThenStatus : Obligations.ReplyPacketsCarryValuesThenStatus := by
  intro s r1 r2 r3 r4 r5 r6
  refine ⟨?d8, ?d9, ?da⟩
  case d8 =>
    rw [exec_replyD8, unpD8, unp26_eq, replyCode_eq_statusByte]
    exact answersUp_emitUp s _
  case d9 =>
    rw [exec_replyD9, unpD9, unp44_eq, unp26_eq, replyCode_eq_statusByte]
    exact answersUp_emitUp s _
  case da =>
    rw [exec_replyDA, unpDA, unp26_eq, unp62_eq, unp44_eq, unp26_eq, replyCode_eq_statusByte]
    exact answersUp_emitUp s _

end Sys2Proof.Machine
end

section
/-! Bytes at the reply assembler and, if they are routed there too, at the poll/command machine (rule R150): the steps
come to what the two machines make of all the bytes in turn. -/

namespace Sys2Proof.Machine

/-! ### What the poll/command machine makes of bytes routed to it too -/

theorem alsoFeed_pcFrame {also : Bool} {p : List Byte} {s t : State} (h : alsoFeed also pcFeed p s = .next t) :
    pcFrame s t := by
  cases also with
  | false => cases h; rfl
  | true => exact feedAll_pcFrame h

theorem alsoFeed_pcFeed_reads {also : Bool} {p : List Byte} {s t : State} (xs : List Input) (r : State)
    (h : alsoFeed also pcFeed p s = .next t) :
    alsoFeed also pcFeed p (replyInputsOf xs r s) = .next (replyInputsOf xs r t) := by
  cases also with
  | false => cases h; rfl
  | true => exact feedAll_pcFeed_reads xs r h

/-- The invariant carries the poll/command machine over any byte. -/
theorem alsoFeed_pcFeed_single_answers (also : Bool) (b : Byte) {s : State} (hs : also = true → Sound s) :
    ∃ t, alsoFeed also pcFeed [b] s = .next t ∧ (also = true → Sound t) := by
  cases also with
  | false => exact ⟨s, rfl, hs⟩
  | true =>
    obtain ⟨t, ht⟩ := pcFeed_answers b (hs rfl)
    exact ⟨t, (andThen_next_right (pcFeed b s)).trans ht, fun _ => pcFeed_sound ht (hs rfl)⟩

/-! ### The steps on bytes of the reply assembler -/

/-- Transactions that begin with the bytes `p` begin with the first `k` of them. -/
theorem inputs_split {f : Byte → Input} {p : List Byte} {rest xs : List Input} (hi : xs = p.map f ++ rest) {k : Nat}
    (hk : k ≤ p.length) : xs = (p.take k).map f ++ xs.drop k := by
  have hk' : k ≤ (p.map f).length := by rw [List.length_map]; exact hk
  calc xs
    _ = xs.take k ++ xs.drop k := (List.take_append_drop k xs).symm
    _ = (p.take k).map f ++ xs.drop k := by rw [hi, List.take_append_of_le_length hk', List.map_take]

theorem busFeed_raFeed (b : Byte) (also : Bool) (s : State) :
    busFeed b also true s = andThen (alsoFeed also pcFeed [b] s) (raFeed b) := by
  cases also with
  | false => rfl
  | true => exact congrArg (fun r => andThen r (raFeed b)) (andThen_next_right (pcFeed b s)).symm

/-- The steps on bytes routed to the reply assembler answer what the poll/command machine, where it is fed too, makes of
these bytes from what the reply assembler makes of them alone. -/
theorem runSteps_replyBytes {also : Bool} {p : List Byte} {rest : List Input} {s t : State}
    (hw : s.cfg.wellFormed = true) (hs : also = true → Sound s)
    (hi : s.inputs = p.map (fun b => Input.busByte b also true) ++ rest)
    (h : feedAll raFeed p { s with inputs := rest } = .next t) :
    ∃ w, alsoFeed also pcFeed p t = .next w ∧ runSteps p.length s = .next w := by
  induction p generalizing s t with
  | nil =>
    cases h
    have hrest : s.inputs = rest := hi
    exact ⟨s, by rw [alsoFeed_nil, ← hrest], rfl⟩
  | cons b p ih =>
    have hframe : replyFrame { s with inputs := rest } t := feedAll_replyFrame h
    obtain ⟨v, hv, h⟩ := andThen_next h
    have hvcfg : v.cfg = s.cfg := by rw [show v = _ from raFeed_frame hv]
    rw [List.map_cons, List.cons_append] at hi
    generalize hxs : p.map (fun b => Input.busByte b also true) ++ rest = xs at hi
    obtain ⟨u, hpc, hu⟩ := alsoFeed_pcFeed_single_answers also b (s := { s with inputs := xs })
      fun ha => sound_withInputs (hs ha) xs
    have huframe : pcFrame { s with inputs := xs } u := alsoFeed_pcFrame hpc
    have hucfg : u.cfg = s.cfg := by rw [show u = _ from huframe]
    have huinputs : u.inputs = xs := by rw [show u = _ from huframe]
    have hra : raFeed b u = .next (replyOf v u) :=
      raFeed_reads hv u (replyAgree_of_pcFrame (s := { s with inputs := xs }) huframe)
    have hstep : step s = .next (replyOf v u) := by
      rw [step_of_inputs hw hi, consume, busFeed_raFeed, hpc, andThen_of_next, hra]
    have hnext : feedAll raFeed p { replyOf v u with inputs := rest } = .next (replyInputsOf rest t u) :=
      feedAll_raFeed_reads h ⟨hucfg.trans hvcfg.symm, rfl, rfl, rfl, rfl, rfl⟩
    obtain ⟨w, hw', hrun⟩ := ih (s := replyOf v u) (hucfg ▸ hw) (fun ha => raFeed_sound hra (hu ha))
      (huinputs.trans hxs.symm) hnext
    refine ⟨w, ?_, (runSteps_succ p.length hstep).trans hrun⟩
    have ht : replyInputsOf rest t { s with inputs := xs } = t := hframe.symm
    have hpc' := alsoFeed_pcFeed_reads rest t hpc
    rw [ht] at hpc'
    rw [alsoFeed_cons, hpc', andThen_of_next, hw']

end Sys2Proof.Machine
end

section
/-! The run of a reply: its bytes are stored one by one, whatever they are, and the last one runs the reply's unit (rules
R190, R192, R193). -/

namespace Sys2Proof.Machine

/-! ### A lead byte, and the bytes after it -/

/-- While a reply is assembled every byte is taken into it, a lead byte too (rule R193). -/
theorem raFeed_active (b : Byte) {s : State} (ha : s.raActive = true) :
    raFeed b s = runFetch raClear (raTake b s) := by
  rw [raFeed, raFetch, if_pos ha]

/-- A lead byte is taken into the reply that it starts (rule R190). -/
theorem raFeed_lead {b : Byte} {n : BitVec 3} {s : State} (ha : s.raActive = false) (hn : raSizeOf b = some n) :
    raFeed b s = raFeed b (raStart n s) := by
  rw [raFeed_active b (s := raStart n s) rfl, raFeed, raFetch, ha, hn]
  rfl

/-- A reply of its declared size is a unit that sends one packet, which depends on the configuration only. -/
theorem reply_emits_packet (c : Cfg) {lead : Byte} {n : BitVec 3} (hn : raSizeOf lead = some n) {body : List Byte}
    (hl : n.toNat = (lead :: body).length) :
    ∃ i q, decode c (.ra (lead :: body)) = .ok i ∧ ∀ s : State, s.cfg = c → exec i s = .next (emitUp q s) := by
  rcases raSizeOf_some hn with ⟨rfl, rfl⟩ | ⟨rfl, rfl⟩ | ⟨rfl, rfl⟩
  · match body, hl with
    | [_, _], _ => exact ⟨_, _, rfl, fun s hs => by rw [exec_replyD8, hs]⟩
  · match body, hl with
    | [_, _, _], _ => exact ⟨_, _, rfl, fun s hs => by rw [exec_replyD9, hs]⟩
  · match body, hl with
    | [_, _, _, _, _, _], _ => exact ⟨_, _, rfl, fun s hs => by rw [exec_replyDA, hs]⟩

/-! ### A reply in the course of its bytes -/

/-- `u` is `s` after the first `k` bytes of the reply `p` of declared size `n`: the reply is started, these bytes are
stored, and nothing but the reply assembler has changed. -/
structure Assembled (s : State) (n : BitVec 3) (p : List Byte) (k : Nat) (u : State) : Prop where
  cnt : u.raCnt.toNat = k
  bytes : memSlice u.raBuf k = p.take k
  frame : u = { s with raActive := true, raSize := n, raCnt := u.raCnt, raBuf := u.raBuf }

theorem assembled_start (s : State) (n : BitVec 3) (p : List Byte) : Assembled s n p 0 (raStart n s) where
  cnt := rfl
  bytes := rfl
  frame := rfl

section
variable {s u : State} {n : BitVec 3} {p : List Byte} {k : Nat}

theorem assembled_active (h : Assembled s n p k u) : u.raActive = true := by rw [h.frame]

theorem assembled_size (h : Assembled s n p k u) : u.raSize = n := by rw [h.frame]

variable (hl : n.toNat = p.length)
include hl

/-- The next byte of a reply is stored, whatever it is (rules R190, R193). -/
theorem assembled_store (h : Assembled s n p k u) (hk : k < p.length) :
    Assembled s n p (k + 1) (raStore p[k] u) := by
  obtain ⟨hcnt, hbytes, hframe⟩ := h
  refine ⟨?cnt, ?bytes, ?frame⟩
  case cnt =>
    rw [raStore_raCnt]
    bv_omega
  case bytes => rw [raStore_raBuf, hcnt, memSlice_write_succ, hbytes, List.take_succ_eq_append_getElem hk]
  case frame => rw [raStore, hframe]

/-- The next byte of a reply is stored, and on the last byte the reply is run (rules R190, R192). -/
theorem assembled_feed (h : Assembled s n p k u) (hk : k < p.length) :
    ∃ v, Assembled s n p (k + 1) v ∧
      ((k + 1 < p.length ∧ raFeed p[k] u = .next v) ∨
        (k + 1 = p.length ∧ raFeed p[k] u = runFetch raClear (.complete (.ra p) v))) := by
  have hv := assembled_store hl h hk
  have hcnt : u.raCnt.toNat = k := h.cnt
  have hsize : u.raSize.toNat = p.length := by rw [assembled_size h, hl]
  have hcnt' : (u.raCnt + 1).toNat = k + 1 := hv.cnt
  refine ⟨_, hv, ?_⟩
  rw [raFeed_active _ (assembled_active h)]
  rcases raTake_cases p[k] u with ⟨hover, _⟩ | ⟨_, hmore, e⟩ | ⟨_, hlast, e⟩
  · have hover' : 7 ≤ u.raCnt.toNat := hover
    bv_omega
  · refine .inl ⟨lt_of_le_of_ne hk fun heq => hmore (BitVec.eq_of_toNat_eq ?_), by rw [e]; rfl⟩
    rw [hcnt', hsize, ← heq]
  · have hend : k + 1 = p.length := by rw [← hsize, ← hlast, hcnt']
    have hreply : raFrame (raStore p[k] u) = p := by
      rw [raFrame, raStore_raSize, hsize, ← hend, hv.bytes, hend, List.take_length]
    exact .inr ⟨hend, by rw [e, hreply]⟩

/-- From a started reply, the first `k` bytes, short of all, are stored. -/
theorem feedAll_assembled :
    ∀ k, k < p.length → ∃ u, feedAll raFeed (p.take k) (raStart n s) = .next u ∧ Assembled s n p k u := by
  intro k
  induction k with
  | zero => exact fun _ => ⟨raStart n s, rfl, assembled_start s n p⟩
  | succ k ih =>
    intro hk
    obtain ⟨u, hrun, hu⟩ := ih (Nat.lt_of_succ_lt hk)
    obtain ⟨v, hv, ⟨_, hfeed⟩ | ⟨hend, _⟩⟩ := assembled_feed hl hu (Nat.lt_of_succ_lt hk)
    · exact ⟨v, (feedAll_take_succ _ hrun).trans hfeed, hv⟩
    · exact absurd hend (Nat.ne_of_lt hk)

end

section
variable {s : State} {n : BitVec 3} {lead : Byte} {body : List Byte}
variable (ha : s.raActive = false) (hn : raSizeOf lead = some n) (hl : n.toNat = (lead :: body).length)
include ha hn hl

/-- A lead byte and the bytes after it, short of the declared size, are stored. -/
theorem feedAll_replyPart {k : Nat} (h0 : 0 < k) (hk : k < (lead :: body).length) :
    ∃ u, feedAll raFeed ((lead :: body).take k) s = .next u ∧ Assembled s n (lead :: body) k u := by
  obtain ⟨j, rfl⟩ := Nat.exists_eq_add_one_of_ne_zero (Nat.ne_of_gt h0)
  obtain ⟨u, hrun, hu⟩ := feedAll_assembled hl (j + 1) hk
  refine ⟨u, Eq.trans ?_ hrun, hu⟩
  exact congrArg (andThen · (feedAll raFeed (body.take j))) (raFeed_lead ha hn)

/-- All bytes of a reply at the reply assembler: the reply is run once, on its last byte, and the assembler is then
inactive (rule R192). -/
theorem feedAll_reply {q : List Byte} {i : Instr} (hd : decode s.cfg (.ra (lead :: body)) = .ok i)
    (he : ∀ x : State, x.cfg = s.cfg → exec i x = .next (emitUp q x)) :
    ∃ v, Assembled s n (lead :: body) (lead :: body).length v ∧
      feedAll raFeed (lead :: body) s = .next (raClear (emitUp q v)) := by
  have hlast : body.length < (lead :: body).length := Nat.lt_succ_self _
  obtain ⟨u, hrun, hu⟩ := feedAll_assembled (s := s) hl body.length hlast
  obtain ⟨v, hv, ⟨hlt, _⟩ | ⟨_, hfeed⟩⟩ := assembled_feed hl hu hlast
  · exact absurd hlt (Nat.lt_irrefl _)
  have hcfg : v.cfg = s.cfg := by rw [hv.frame]
  refine ⟨v, hv, ?_⟩
  calc feedAll raFeed (lead :: body) s
    _ = feedAll raFeed (lead :: body) (raStart n s) :=
      congrArg (andThen · (feedAll raFeed body)) (raFeed_lead ha hn)
    _ = feedAll raFeed ((lead :: body).take (body.length + 1)) (raStart n s) :=
      congrArg (feedAll raFeed · (raStart n s)) (List.take_length (l := lead :: body)).symm
    _ = raFeed (lead :: body)[body.length] u := feedAll_take_succ hlast hrun
    _ = runFetch raClear (.complete (.ra (lead :: body)) v) := hfeed
    _ = .next (raClear (emitUp q v)) := runFetch_complete_of_ok raClear (hcfg ▸ hd) (he v hcfg)

end

/-- Settles O53: the reply assembler alone stores the bytes one by one and runs the reply on the last one; the steps add
what the poll/command machine makes of the same bytes. -/
theorem replyIsAssembledWhateverItsBytes : Obligations.ReplyIsAssembledWhateverItsBytes := by
  intro s lead body n both rest hw ha hn hl hsound hi
  refine ⟨fun k h0 hk => ?before, ?after⟩
  case before =>
    obtain ⟨u, hu, hasm⟩ := feedAll_replyPart (s := { s with inputs := s.inputs.drop k }) ha hn hl h0 hk
    obtain ⟨w, hw', hrun⟩ := runSteps_replyBytes hw hsound (inputs_split hi hk.le) hu
    rw [List.length_take_of_le hk.le] at hrun
    exact ⟨u, w, assembled_active hasm, hasm.cnt, hasm.frame, hw', alsoFeed_pcFrame hw', hrun⟩
  case after =>
    obtain ⟨i, q, hd, he⟩ := reply_emits_packet s.cfg hn hl
    obtain ⟨v, hasm, hfeed⟩ := feedAll_reply (s := { s with inputs := rest }) ha hn hl hd he
    obtain ⟨w, hw', hrun⟩ := runSteps_replyBytes hw hsound hi hfeed
    have hframe : raClear (emitUp q v) = { s with
        inputs := rest, raActive := false, raCnt := 0, raSize := n, raBuf := v.raBuf, upTx := s.upTx ++ [q] } := by
      rw [hasm.frame]
      rfl
    exact ⟨i, q, raClear (emitUp q v), w, hd, he s rfl, hframe, hw', alsoFeed_pcFrame hw', hrun⟩

end Sys2Proof.Machine
end

section
/-! The host port (rules R200 to R208): what the row of a register does, and the values that a host read returns. -/

namespace Sys2Proof.Machine

/-! ### The rows of the register map -/

/-- The row that the register map gives a number is the access to that number. -/
theorem exec_hostRegInstr {a : HostAccess} {reg : Byte} {i : Instr} (h : hostRegInstr a reg = some i) (s : State) :
    exec i s = .next (hostAccess reg a s) := by
  by_cases hr : reg.toNat < 20
  · obtain ⟨k, rfl⟩ : ∃ k : Fin 20, reg = BitVec.ofNat 8 k.val := ⟨⟨reg.toNat, hr⟩, by simp⟩
    fin_cases k <;> cases h <;> rfl
  · rw [hostRegInstr_none (Nat.le_of_not_lt hr)] at h
    cases h

/-- The number of the register `AIU_BIT[n]` (rule R207, decision D36). -/
def aiuBitReg (n : Fin 14) : Byte := BitVec.ofNat 8 (n.val + 5)

theorem aiuBitReg_toNat (n : Fin 14) : (aiuBitReg n).toNat = n.val + 5 := by
  rw [aiuBitReg, BitVec.toNat_ofNat]
  omega

theorem hostRegInstr_aiuBitReg (n : Fin 14) (a : HostAccess) :
    hostRegInstr a (aiuBitReg n) = some (aiuBitInstr n a) := by
  fin_cases n <;> rfl

/-! ### Reads -/

/-- A read row returns the value of its register. -/
theorem returnsHost_of_hostRegInstr {reg : Byte} {i : Instr} (h : hostRegInstr .read reg = some i) {s : State}
    {v : Word16} (hv : regRead s reg = v) : returnsHost s (exec i s) v := by
  rw [exec_hostRegInstr h, ← hv]
  rfl

/-- The numbers 5 to 18 read the bits of `aiu`, the lowest first. -/
theorem regRead_aiuBitReg (s : State) (n : Fin 14) :
    regRead s (aiuBitReg n) = if s.aiu.getLsbD n.val then 1 else 0 := by
  have hn := aiuBitReg_toNat n
  have hbit : (aiuBitReg n).toNat < 19 := by omega
  have hne : ∀ k : Byte, k.toNat < 5 → aiuBitReg n ≠ k := by
    rintro k hk rfl
    omega
  rw [regRead, if_neg (hne 0 (by decide)), if_neg (hne 1 (by decide)), if_neg (hne 2 (by decide)),
    if_neg (hne 3 (by decide)), if_neg (hne 4 (by decide)), if_pos hbit, hn, Nat.add_sub_cancel]
  cases s.aiu.getLsbD n.val <;> rfl

/-- Settles O34, a clause per register: its row is the read of its number. -/
theorem hostReadsReturnRegister : Obligations.HostReadsReturnRegister := by
  intro s n
  refine ⟨?cabType, ?cabAddr, ?speed, ?key, ?aiu, ?aiuBit, ?cabState⟩
  case cabType => exact returnsHost_of_hostRegInstr (reg := 0) rfl (BitVec.ofNat_toNat 16 s.cabType).symm
  case cabAddr => exact returnsHost_of_hostRegInstr (reg := 1) rfl (BitVec.ofNat_toNat 16 s.cabAddr).symm
  case speed => exact returnsHost_of_hostRegInstr (reg := 2) rfl (BitVec.ofNat_toNat 16 s.speed).symm
  case key => exact returnsHost_of_hostRegInstr (reg := 3) rfl (BitVec.ofNat_toNat 16 s.key).symm
  case aiu => exact returnsHost_of_hostRegInstr (reg := 4) rfl (BitVec.ofNat_toNat 16 s.aiu).symm
  case aiuBit => exact returnsHost_of_hostRegInstr (hostRegInstr_aiuBitReg n .read) (regRead_aiuBitReg s n)
  case cabState =>
    refine returnsHost_of_hostRegInstr (reg := 19) rfl ?_
    show (cabStateCode s.cabState).setWidth 16 = _
    cases s.cabState <;> rfl

end Sys2Proof.Machine
end

section
/-! The registers that only the host writes (rules R19 to R22, R210), and the key, which a poll may report and clear
(rule R154). -/

namespace Sys2Proof.Machine

/-! ### What each machine leaves unchanged -/

theorem upFrame_identity_key {s t : State} (h : upFrame s t) : sameIdentity s t ∧ t.key = s.key := by
  unfold upFrame at h
  rw [h]
  exact ⟨⟨rfl, rfl, rfl, rfl⟩, rfl⟩

theorem replyFrame_identity_key {s t : State} (h : replyFrame s t) : sameIdentity s t ∧ t.key = s.key := by
  unfold replyFrame at h
  rw [h]
  exact ⟨⟨rfl, rfl, rfl, rfl⟩, rfl⟩

theorem pcFrame_identity {s t : State} (h : pcFrame s t) : sameIdentity s t := by
  unfold pcFrame at h
  rw [h]
  exact ⟨rfl, rfl, rfl, rfl⟩

theorem sameIdentity_trans {s t u : State} : sameIdentity s t → sameIdentity t u → sameIdentity s u := by
  rintro ⟨htype, haddr, haiu, hspeed⟩ ⟨htype', haddr', haiu', hspeed'⟩
  exact ⟨htype'.trans htype, haddr'.trans haddr, haiu'.trans haiu, hspeed'.trans hspeed⟩

/-! ### The key -/

/-- The key of `t` is that of `s`, or it was reported and is `NO_KEY`. -/
def keyKeptOrCleared (s t : State) : Prop := t.key = s.key ∨ t.key = s.cfg.dev.noKey

/-- Of the reactions to a poll only the key report writes the key (rule R154). -/
theorem pollReact_key (s : State) : keyKeptOrCleared s (pollReact s) := by
  rcases pollReact_cases s with ⟨_, _, e⟩ | ⟨_, _, _, e⟩ | ⟨_, _, _, e⟩ | ⟨_, _, e⟩ | ⟨_, _, e⟩ <;> rw [e]
  · rw [flush_eq]; exact .inl rfl
  · exact .inr (pushKeySpeed_key s)
  · exact .inl rfl
  · exact .inl (emitBus_key s _)
  · exact .inl rfl

theorem pollTurn_key (a : BitVec 6) (s : State) : keyKeptOrCleared s (pollTurn a s) := by
  rcases pollTurn_cases a s with ⟨_, e⟩ | ⟨_, _, e⟩ | ⟨_, _, e⟩ <;> rw [e]
  · exact .inl rfl
  · exact .inl rfl
  · exact pollReact_key (addressed s)

theorem pcUnit_key {m : CabState} {p : List Byte} {s t : State} (h : runUnit (.pc m p) s = .next t) :
    keyKeptOrCleared s t := by
  rcases pcUnit_cases h with rfl | ⟨a, rfl⟩ | ⟨e, rfl⟩ | ⟨q, rfl⟩ | ⟨opc, text, rfl⟩ | ⟨r, rfl⟩
  · exact .inl rfl
  · exact pollTurn_key a s
  · exact .inl rfl
  · exact .inl rfl
  · rw [fcTime_frame]; exact .inl rfl
  · rw [fcRateCmd_frame]; exact .inl rfl

theorem pcFeed_key {b : Byte} {s t : State} (h : pcFeed b s = .next t) : keyKeptOrCleared s t := by
  rcases pcFeed_cases h with h | ⟨_, _, ⟨_, rfl⟩ | ⟨p, v, hv, rfl⟩⟩
  · exact pcUnit_key h
  · rw [ibStore_eq]; exact .inl rfl
  · have hunit := pcUnit_key hv
    rw [ibStore_eq] at hunit
    exact hunit

/-! ### Every byte and every host read -/

/-- A bus byte runs through the poll/command machine, the only one that writes the key, and then through the reply
assembler, each of them only if it is routed there (rule R150). -/
theorem busByte_identity_key {b : Byte} {p r : Bool} {s u t : State}
    (hpc : (if p then pcFeed b s else .next s) = .next u) (hra : (if r then raFeed b u else .next u) = .next t) :
    sameIdentity s t ∧ keyKeptOrCleared s t := by
  have hu : sameIdentity s u ∧ keyKeptOrCleared s u := by
    cases p with
    | false => cases hpc; exact ⟨⟨rfl, rfl, rfl, rfl⟩, .inl rfl⟩
    | true => exact ⟨pcFrame_identity (pcFeed_frame hpc), pcFeed_key hpc⟩
  cases r with
  | false => cases hra; exact hu
  | true =>
    obtain ⟨hid, hkey⟩ := replyFrame_identity_key (raFeed_frame hra)
    rw [keyKeptOrCleared, hkey]
    exact ⟨sameIdentity_trans hu.1 hid, hu.2⟩

/-- Settles O49, one case per kind of transaction: the two that may write these registers are excluded, and the bytes
act through the frames of their machines. -/
theorem wireNeverWritesIdentity : Obligations.WireNeverWritesIdentity := by
  intro s t x rest hi h hreset hwrite
  obtain ⟨_, hstep⟩ := step_cases h
  cases hstep with
  | idle hi' _ => rw [hi] at hi'; cases hi'
  | up b rest' _ hup =>
    obtain ⟨hid, hkey⟩ := upFrame_identity_key (upFeed_frame hup)
    exact ⟨hid, .inl hkey⟩
  | bus b p r rest' u _ hpc hra => exact busByte_identity_key (s := { s with inputs := rest' }) hpc hra
  | read reg rest' _ ht => rw [ht]; exact ⟨⟨rfl, rfl, rfl, rfl⟩, .inl rfl⟩
  | write reg v rest' hi' _ =>
    rw [hi] at hi'
    cases hi'
    exact absurd rfl (hwrite reg v)
  | reset rest' hi' _ =>
    rw [hi] at hi'
    cases hi'
    exact absurd rfl hreset

end Sys2Proof.Machine
end

section
/-! When a step sends on the cab bus (rules R151, R156, R171, R222): the poll/command machine is the only one that
does, on a poll of this node or by a command that completes while it is addressed. -/

namespace Sys2Proof.Machine

/-! ### The units that send -/

/-- Only a poll of this node's own non-zero address sends (rule R151). -/
theorem pollTurn_sends {a : BitVec 6} {s : State} (hsent : (pollTurn a s).busTx ≠ s.busTx) :
    a = s.cabAddr ∧ s.cabAddr ≠ 0 := by
  rcases pollTurn_cases a s with ⟨_, e⟩ | ⟨_, _, e⟩ | ⟨h0, ha, _⟩
  · rw [e] at hsent; exact absurd rfl hsent
  · rw [e] at hsent; exact absurd rfl hsent
  · exact ⟨ha, ha ▸ h0⟩

/-- A unit that sends is a poll of this node, or a command read in the addressed state: of the inbound commands only
the cab-type query sends, and the broadcast table has none (rules R151, R171). -/
theorem pcUnit_sends {m : CabState} {p : List Byte} {s t : State} (h : runUnit (.pc m p) s = .next t)
    (hsent : t.busTx ≠ s.busTx) :
    (∃ b, p = [b] ∧ isPoll b = true ∧ pollAddr b = s.cabAddr ∧ s.cabAddr ≠ 0) ∨
      (∃ b rest, p = b :: rest ∧ isPoll b = false ∧ m = .execMyCmd) := by
  rcases runUnit_next h with ⟨i, hd, he⟩ | ⟨_, rfl⟩
  · rcases decode_pc_cases hd with ⟨b, hp, hpoll, rfl⟩ | ⟨⟨b, rest, hp, hpoll⟩, heffect⟩
    · cases he
      obtain ⟨haddr, hne⟩ := pollTurn_sends hsent
      exact .inl ⟨b, hp, hpoll, haddr, hne⟩
    · refine .inr ⟨b, rest, hp, hpoll, ?_⟩
      rcases heffect with hi | ⟨f, hi⟩ | ⟨hm, _⟩ | ⟨opc, text, hi⟩ | ⟨r, hi⟩
      · rw [hi] at he; cases he; exact absurd rfl hsent
      · rw [hi] at he; cases he; exact absurd rfl hsent
      · exact hm
      · rw [hi] at he; cases he
        rw [fcTime_frame] at hsent; exact absurd rfl hsent
      · rw [hi] at he; cases he
        rw [fcRateCmd_frame] at hsent; exact absurd rfl hsent
  · exact absurd rfl hsent

/-! ### The command that a byte completes -/

/-- The bytes of a completed command are those stored before and the adjusted byte that completes it (rule R156). -/
theorem ibFrame_of_complete {b : Byte} {s : State} (hc : s.ibCnt.toNat < ibBufSize)
    (hl : s.ibCnt + 1 = (ibLatch b s).ibLen) :
    ibFrame (ibStore b (ibLatch b s)) =
      memSlice s.ibBuf s.ibCnt.toNat ++ [storedByte s.cfg.ib s.ibCnt.toNat b] := by
  have hlen : (s.ibCnt + 1).toNat = s.ibCnt.toNat + 1 := by unfold ibBufSize at hc; bv_omega
  rw [ibStore_eq, ibFrame, ← hl, hlen, memSlice_write_succ]

/-- A completed command of one byte is that byte as received (rule R16). -/
theorem ibFrame_singleton {b c : Byte} {s : State} (hw : s.cfg.wellFormed = true) (hc : s.ibCnt.toNat < ibBufSize)
    (hl : s.ibCnt + 1 = (ibLatch b s).ibLen) (hf : ibFrame (ibStore b (ibLatch b s)) = [c]) : c = b := by
  rw [ibFrame_of_complete hc hl] at hf
  have hcnt : s.ibCnt = 0 := by
    have hlen := congrArg List.length hf
    rw [List.length_append, memSlice_length, List.length_singleton, List.length_singleton] at hlen
    bv_omega
  rw [storedByte_opcode hw hcnt b, hcnt] at hf
  exact (List.cons.inj hf).1.symm

/-! ### The bytes that send -/

/-- Is it this node's turn on the bus when the byte `b` arrives: is `b` a poll byte for its non-zero address, or a
non-poll byte while it is addressed (rule R222)? -/
def hasTurn (b : Byte) (s : State) : Prop :=
  (isPoll b = true ∧ pollAddr b = s.cabAddr ∧ s.cabAddr ≠ 0) ∨ (isPoll b = false ∧ s.cabState = .execMyCmd)

/-- A byte at the poll/command machine sends by its own unit, or by the command it completes, which is never a poll. -/
theorem pcFeed_sends {b : Byte} {s t : State} (hw : s.cfg.wellFormed = true) (h : pcFeed b s = .next t)
    (hsent : t.busTx ≠ s.busTx) : hasTurn b s := by
  unfold pcFeed at h
  rcases pcFetch_cases b s with ⟨_, e⟩ | ⟨_, _, e⟩ | ⟨_, _, _, e⟩ | ⟨hp, hc, hl, e⟩ <;> rw [e] at h
  · rcases pcUnit_sends h hsent with ⟨c, hb, hturn⟩ | ⟨c, rest, hb, hturn⟩
    · cases hb; exact .inl hturn
    · cases hb; exact .inr hturn
  · cases h
  · cases h
    rw [ibStore_eq] at hsent; exact absurd rfl hsent
  · obtain ⟨hpoll, _⟩ := pcSingle_false hp
    obtain ⟨v, hv, ht⟩ := andThen_next h
    cases ht
    have hunit : v.busTx ≠ (ibStore b (ibLatch b s)).busTx := by
      rw [ibStore_eq]; exact hsent
    rcases pcUnit_sends hv hunit with ⟨c, hf, hpoll', _⟩ | ⟨_, _, _, _, hm⟩
    · rw [ibFrame_singleton hw hc hl hf, hpoll] at hpoll'; cases hpoll'
    · exact .inr ⟨hpoll, hm⟩

/-! ### The transactions that send nothing -/

theorem upFrame_busTx {s t : State} (h : upFrame s t) : t.busTx = s.busTx := by
  unfold upFrame at h; rw [h]

theorem replyFrame_busTx {s t : State} (h : replyFrame s t) : t.busTx = s.busTx := by
  unfold replyFrame at h; rw [h]

theorem hostFrame_busTx {s t : State} (h : hostFrame s t) : t.busTx = s.busTx := by
  unfold hostFrame at h; rw [h]

/-- Settles O50, one case per kind of transaction: of the machines only the poll/command machine sends, so a bus byte
that sends is routed to it. -/
theorem busTransmissionNeedsTurn : Obligations.BusTransmissionNeedsTurn := by
  intro s t h hsent
  obtain ⟨hw, hstep⟩ := step_cases h
  cases hstep with
  | idle _ ht => rw [ht] at hsent; exact absurd rfl hsent
  | up b rest _ hup => exact absurd (upFrame_busTx (upFeed_frame hup)) hsent
  | bus b p r rest u hi hpc hra =>
    have hu : u.busTx ≠ s.busTx := by
      cases r with
      | false => cases hra; exact hsent
      | true => rw [replyFrame_busTx (raFeed_frame hra)] at hsent; exact hsent
    cases p with
    | false => cases hpc; exact absurd rfl hu
    | true => exact ⟨b, r, rest, hi, pcFeed_sends (s := { s with inputs := rest }) hw hpc hu⟩
  | read reg rest _ ht =>
    rw [ht] at hsent
    exact absurd (hostFrame_busTx (hostAccess_frame { s with inputs := rest } reg .read)) hsent
  | write reg v rest _ ht =>
    rw [ht] at hsent
    exact absurd (hostFrame_busTx (hostAccess_frame { s with inputs := rest } reg (.write v))) hsent
  | reset rest _ ht => rw [ht] at hsent; exact absurd rfl hsent

end Sys2Proof.Machine
end

section
/-! Decoding and encoding agree: what a well-formed unit encodes to decodes to that unit, and what an upstream packet
decodes to is well-formed and encodes to that packet (spec/30_encoding.md). -/

namespace Sys2Proof.Machine

/-! ### The 16-bit fields (rules R43 (a), R74) -/

theorem word16_hi8_lo8 (v : Word16) : word16 (hi8 v) (lo8 v) = v := by
  apply BitVec.eq_of_toNat_eq
  rw [word16, hi8, lo8, BitVec.toNat_append, BitVec.extractLsb'_toNat, BitVec.extractLsb'_toNat,
    Nat.shiftRight_eq_div_pow, Nat.shiftRight_eq_div_pow, ← Nat.shiftLeft_add_eq_or_of_lt (by omega),
    Nat.shiftLeft_eq]
  omega

theorem hi8_word16 (hi lo : Byte) : hi8 (word16 hi lo) = hi := BitVec.extractLsb'_append_eq_left

theorem lo8_word16 (hi lo : Byte) : lo8 (word16 hi lo) = lo := BitVec.extractLsb'_append_eq_right

/-! ### Formats read what they are written from (rule R62) -/

theorem formatU3_fields (f : Word16 → Instr) (a : Word16) : formatU3 f [hi8 a, lo8 a] = .ok (f a) := by
  rw [formatU3, word16_hi8_lo8]

theorem formatU4_fields (f : Word16 → Byte → Instr) (a : Word16) (d : Byte) :
    formatU4 f [hi8 a, lo8 a, d] = .ok (f a d) := by
  rw [formatU4, word16_hi8_lo8]

theorem formatU5_fields (f : Word16 → Byte → Byte → Instr) (a : Word16) (op d : Byte) :
    formatU5 f [hi8 a, lo8 a, op, d] = .ok (f a op d) := by
  rw [formatU5, word16_hi8_lo8]

theorem formatU6_fields (f : Word16 → Word16 → Byte → Instr) (a cv : Word16) (d : Byte) :
    formatU6 f [hi8 a, lo8 a, hi8 cv, lo8 cv, d] = .ok (f a cv d) := by
  rw [formatU6, word16_hi8_lo8, word16_hi8_lo8]

theorem formatList_of_length {n : Nat} (f : List Byte → Instr) {rest : List Byte} (h : rest.length = n) :
    formatList n f rest = .ok (f rest) := if_pos h

/-! ### What a format accepts, it was written from -/

theorem formatU1_ok {i j : Instr} {rest : List Byte} (h : formatU1 i rest = .ok j) : rest = [] ∧ j = i := by
  unfold formatU1 at h
  split at h <;> cases h
  exact ⟨rfl, rfl⟩

theorem formatU2_ok {f : Byte → Instr} {j : Instr} {rest : List Byte} (h : formatU2 f rest = .ok j) :
    ∃ d, rest = [d] ∧ j = f d := by
  unfold formatU2 at h
  split at h <;> cases h
  exact ⟨_, rfl, rfl⟩

theorem formatU3R_ok {f : Byte → Byte → Instr} {j : Instr} {rest : List Byte} (h : formatU3R f rest = .ok j) :
    ∃ r d, rest = [r, d] ∧ j = f r d := by
  unfold formatU3R at h
  split at h <;> cases h
  exact ⟨_, _, rfl, rfl⟩

theorem formatU3_ok {f : Word16 → Instr} {j : Instr} {rest : List Byte} (h : formatU3 f rest = .ok j) :
    ∃ a, rest = [hi8 a, lo8 a] ∧ j = f a := by
  unfold formatU3 at h
  split at h <;> cases h
  exact ⟨_, by rw [hi8_word16, lo8_word16], rfl⟩

theorem formatU4_ok {f : Word16 → Byte → Instr} {j : Instr} {rest : List Byte} (h : formatU4 f rest = .ok j) :
    ∃ a d, rest = [hi8 a, lo8 a, d] ∧ j = f a d := by
  unfold formatU4 at h
  split at h <;> cases h
  exact ⟨_, _, by rw [hi8_word16, lo8_word16], rfl⟩

theorem formatU5_ok {f : Word16 → Byte → Byte → Instr} {j : Instr} {rest : List Byte}
    (h : formatU5 f rest = .ok j) : ∃ a op d, rest = [hi8 a, lo8 a, op, d] ∧ j = f a op d := by
  unfold formatU5 at h
  split at h <;> cases h
  exact ⟨_, _, _, by rw [hi8_word16, lo8_word16], rfl⟩

theorem formatU6_ok {f : Word16 → Word16 → Byte → Instr} {j : Instr} {rest : List Byte}
    (h : formatU6 f rest = .ok j) : ∃ a cv d, rest = [hi8 a, lo8 a, hi8 cv, lo8 cv, d] ∧ j = f a cv d := by
  unfold formatU6 at h
  split at h <;> cases h
  exact ⟨_, _, _, by rw [hi8_word16, lo8_word16, hi8_word16, lo8_word16], rfl⟩

theorem formatList_ok {n : Nat} {f : List Byte → Instr} {j : Instr} {rest : List Byte}
    (h : formatList n f rest = .ok j) : rest.length = n ∧ j = f rest := by
  unfold formatList at h
  split at h <;> cases h
  exact ⟨‹_›, rfl⟩

/-! ### Upstream packets -/

theorem upOpcode_iff {c : Cfg} {opc : Byte} {p : UpClass → Bool} :
    upOpcode c opc p = true ↔ upInRange c.up opc = true ∧ p (upClassOf c.up opc) = true := by
  rw [upOpcode, Bool.and_eq_true]

theorem decode_up_inRange {c : Cfg} {opc : Byte} (hr : upInRange c.up opc = true) (rest : List Byte) :
    decode c (.up (opc :: rest)) = decodeUpClass opc (upLen c.up opc) (upClassOf c.up opc) rest := if_pos hr

theorem decode_up_outOfRange {c : Cfg} {opc : Byte} (hr : ¬ upInRange c.up opc = true) (rest : List Byte) :
    decode c (.up (opc :: rest)) = formatU1 (.upOutOfRange opc) rest := if_neg hr

/-- A packet decodes to the unit that every class its opcode may have reads from it. -/
theorem decode_of_upOpcode {c : Cfg} {opc : Byte} {p : UpClass → Bool} {rest : List Byte} {i : Instr}
    (h : upOpcode c opc p = true) (hd : ∀ k, p k = true → decodeUpClass opc (upLen c.up opc) k rest = .ok i) :
    decode c (.up (opc :: rest)) = .ok i := by
  obtain ⟨hr, hp⟩ := upOpcode_iff.1 h
  rw [decode_up_inRange hr]
  exact hd _ hp

/-- A well-formed upstream unit decodes from its packet: its opcode has its class, and the class's format reads back
the fields. -/
theorem decode_encode_up {c : Cfg} {i : Instr} (hu : isUpUnit i = true) (h : i.wf c = true) :
    decode c (encode i) = .ok i := by
  cases i with
  | upNop | upNopCrlf | upStatus | upMacro | upProgEnter | upProgExit | upFwVer | upRegProg | upRegRead =>
    rw [Instr.wf] at h
    exact decode_of_upOpcode h fun k hk => by cases k <;> cases hk; rfl
  | upCvReadPaged | upCvReadDirect =>
    rw [Instr.wf] at h
    exact decode_of_upOpcode h fun k hk => by cases k <;> cases hk; exact formatU3_fields _ _
  | upCvProgPaged | upCvProgDirect =>
    rw [Instr.wf] at h
    exact decode_of_upOpcode h fun k hk => by cases k <;> cases hk; exact formatU4_fields _ _ _
  | upLocoCtrl | upAccCtrl =>
    rw [Instr.wf] at h
    exact decode_of_upOpcode h fun k hk => by cases k <;> cases hk; exact formatU5_fields _ _ _ _
  | upOpsLoco | upOpsAcc =>
    rw [Instr.wf] at h
    exact decode_of_upOpcode h fun k hk => by cases k <;> cases hk; exact formatU6_fields _ _ _ _
  | upUnsupported opc rest =>
    simp only [Instr.wf, Bool.and_eq_true, beq_iff_eq] at h
    obtain ⟨hopc, hlen⟩ := h
    exact decode_of_upOpcode hopc fun k hk => by
      cases k <;> cases hk
      exact formatList_of_length _ (by omega)
  | upOutOfRange b => exact decode_up_outOfRange (by simpa [Instr.wf] using h) []
  | _ => cases hu

/-- What the format of an opcode's class reads from the bytes after it is well-formed and is written as these bytes. -/
theorem decodeUpClass_wf_encode {c : Cfg} (hw : c.wellFormed = true) {opc : Byte} {k : UpClass} {rest : List Byte}
    {i : Instr} (hr : upInRange c.up opc = true) (hk : upClassOf c.up opc = k)
    (h : decodeUpClass opc (upLen c.up opc) k rest = .ok i) : i.wf c = true ∧ encode i = .up (opc :: rest) := by
  cases k with
  | nop | nopCrlf | progEnter | progExit | fwVer =>
    obtain ⟨rfl, rfl⟩ := formatU1_ok h
    exact ⟨by simp [Instr.wf, upOpcode, hr, hk], rfl⟩
  | status | runMacro | regRead =>
    obtain ⟨d, rfl, rfl⟩ := formatU2_ok h
    exact ⟨by simp [Instr.wf, upOpcode, hr, hk], rfl⟩
  | regProg =>
    obtain ⟨r, d, rfl, rfl⟩ := formatU3R_ok h
    exact ⟨by simp [Instr.wf, upOpcode, hr, hk], rfl⟩
  | cvReadPaged | cvReadDirect =>
    obtain ⟨a, rfl, rfl⟩ := formatU3_ok h
    exact ⟨by simp [Instr.wf, upOpcode, hr, hk], rfl⟩
  | cvProgPaged | cvProgDirect =>
    obtain ⟨a, d, rfl, rfl⟩ := formatU4_ok h
    exact ⟨by simp [Instr.wf, upOpcode, hr, hk], rfl⟩
  | locoCtrl | accCtrl =>
    obtain ⟨a, op, d, rfl, rfl⟩ := formatU5_ok h
    exact ⟨by simp [Instr.wf, upOpcode, hr, hk], rfl⟩
  | opsLoco | opsAcc =>
    obtain ⟨a, cv, d, rfl, rfl⟩ := formatU6_ok h
    exact ⟨by simp [Instr.wf, upOpcode, hr, hk], rfl⟩
  | unsupported =>
    obtain ⟨hlen, rfl⟩ := formatList_ok h
    obtain ⟨hpos, _⟩ := upPacketLen_bounds hw opc
    rw [upPacketLen_of_inRange hw hr] at hpos
    have hlen' : (upLen c.up opc).toNat = rest.length + 1 := by bv_omega
    exact ⟨by simp [Instr.wf, upOpcode, hr, hk, hlen'], rfl⟩

/-- Settles O59: an opcode of the range is read by its class's format, and any other is a packet by itself. -/
theorem decodedPacketReencodes : Obligations.DecodedPacketReencodes := by
  intro c p i hw h
  cases p with
  | nil => cases h
  | cons opc rest =>
    by_cases hr : upInRange c.up opc = true
    · rw [decode_up_inRange hr] at h
      exact decodeUpClass_wf_encode hw hr rfl h
    · rw [decode_up_outOfRange hr] at h
      obtain ⟨rfl, rfl⟩ := formatU1_ok h
      exact ⟨by simpa [Instr.wf] using hr, rfl⟩

/-! ### Units of the poll/command machine -/

/-- A poll byte carries its address in its low six bits (rule R64). -/
theorem isPoll_pollByte (a : BitVec 6) : isPoll (pollByte a) = true := by
  revert a
  decide

theorem pollAddr_pollByte (a : BitVec 6) : pollAddr (pollByte a) = a := by
  revert a
  decide

/-- A unit of one byte that is no poll byte, in a state that reads no command, is a byte ignored (rule R159). -/
theorem decode_ignored (c : Cfg) {b : Byte} (hp : isPoll b = false) :
    decode c (.pc .unknown [b]) = .ok (.ibIgnored b) := by
  simp [decode, decodePc, hp, formatU1]

/-- A byte of length 0 in a mode's table is no opcode of that mode (rule R158). -/
theorem decode_unknown {c : Cfg} {m : IbMode} {b : Byte} (hp : isPoll b = false) (hl : ibLen c.ib m b = 0) :
    decode c (.pc m.state [b]) = .ok (.ibUnknown m b) := by
  cases m <;> simp [decode, decodePc, IbMode.state, hp, decodeIb, hl, formatU1]

/-- The bytes of a well-formed addressed unit are read by the class of its opcode. -/
theorem decode_of_addrUnit {c : Cfg} {opc : Byte} {data : List Byte} {k : AddrClass}
    (h : addrUnit c.ib opc data (fun x => x == k) = true) :
    decode c (.pc .execMyCmd (opc :: data)) = decodeAddrClass opc k data := by
  simp only [addrUnit, Bool.and_eq_true, Bool.not_eq_true', beq_iff_eq] at h
  obtain ⟨⟨⟨hp, hlen⟩, hk⟩, _⟩ := h
  have hpos : ibLen c.ib .addressed opc ≠ 0 := fun h0 => by rw [h0] at hlen; cases hlen
  rw [decode_pc_executing data rfl hp, ← hk]
  exact if_neg hpos

/-- The bytes of a well-formed broadcast unit are read by the class of its opcode. -/
theorem decode_of_bcastUnit {c : Cfg} {opc : Byte} {data : List Byte} {k : BcastClass}
    (h : bcastUnit c.ib opc data (fun x => x == k) = true) :
    decode c (.pc .execBroadcastCmd (opc :: data)) = decodeBcastClass opc k data := by
  simp only [bcastUnit, Bool.and_eq_true, Bool.not_eq_true', beq_iff_eq] at h
  obtain ⟨⟨⟨hp, hlen⟩, hk⟩, _⟩ := h
  have hpos : ibLen c.ib .broadcast opc ≠ 0 := fun h0 => by rw [h0] at hlen; cases hlen
  rw [decode_pc_executing data rfl hp, ← hk]
  exact if_neg hpos

/-- The bytes of a well-formed text block decode to the block at the position of its opcode (rule R172). -/
theorem decode_of_lcdUnit {c : Cfg} {opc : Byte} {text : List Byte} {p : BitVec 2}
    (h : lcdUnit c.ib opc text p = true) :
    lcdPos opc = p ∧ decode c (.pc .execMyCmd (opc :: text)) = .ok (lcdInstr opc text) := by
  simp only [lcdUnit, Bool.and_eq_true, beq_iff_eq] at h
  obtain ⟨⟨hunit, hlen⟩, hpos⟩ := h
  refine ⟨hpos, ?_⟩
  rw [decode_of_addrUnit hunit]
  exact formatList_of_length _ hlen

/-! ### Host accesses -/

/-- An access to a mapped number decodes to the row of its register. -/
theorem decode_encodeHost {c : Cfg} {reg : Byte} {a : HostAccess} {i : Instr} (h : hostRegInstr a reg = some i) :
    decode c (encodeHost reg a) = .ok i := by
  cases a <;> simp [encodeHost, decode, h]

/-! ### Every unit -/

/-- Settles O58, by the port of the unit: its leading byte, or its register number, selects its own format. -/
theorem decodeOfEncodeIsIdentity : Obligations.DecodeOfEncodeIsIdentity := by
  intro c i _ h
  cases i with
  | poll a => simp [decode, encode, decodePc, isPoll_pollByte, pollAddr_pollByte, formatU1]
  | replyD8 | replyD9 | replyDA | reset => rfl
  | replyNone b => exact decode_ra_single (Option.isNone_iff_eq_none.1 h)
  | upNop | upNopCrlf | upStatus | upMacro | upProgEnter | upProgExit | upCvProgPaged | upCvReadPaged | upLocoCtrl
  | upRegProg | upRegRead | upCvProgDirect | upCvReadDirect | upFwVer | upAccCtrl | upOpsLoco | upOpsAcc
  | upUnsupported | upOutOfRange => exact decode_encode_up rfl h
  | ibLcdText0 | ibLcdText1 | ibLcdText2 | ibLcdText3 =>
    rw [Instr.wf] at h
    obtain ⟨hpos, hd⟩ := decode_of_lcdUnit h
    exact hd.trans (by rw [lcdInstr, hpos]; rfl)
  | ibCursorMove | ibTtyAdv | ibTtyNoadv | ibHome | ibClear | ibCursorOff | ibCursorOn | ibDispRight
  | ibCabTypeQuery =>
    rw [Instr.wf] at h
    exact decode_of_addrUnit h
  | ibFcTime opc text =>
    simp only [Instr.wf, Bool.and_eq_true, beq_iff_eq] at h
    obtain ⟨hunit, hlen⟩ := h
    exact (decode_of_bcastUnit hunit).trans (formatList_of_length _ hlen)
  | ibFcRate =>
    rw [Instr.wf] at h
    exact decode_of_bcastUnit h
  | ibUnknown m b =>
    simp only [Instr.wf, Bool.and_eq_true, Bool.not_eq_true', beq_iff_eq] at h
    obtain ⟨hp, hl⟩ := h
    exact decode_unknown hp hl
  | ibIgnored b =>
    simp only [Instr.wf, Bool.not_eq_true'] at h
    exact decode_ignored c h
  | cfgCabType | cfgCabAddr | cfgSpeed | cfgKey | cfgAiu | cfgAiuBit0 | cfgAiuBit1 | cfgAiuBit2 | cfgAiuBit3
  | cfgAiuBit4 | cfgAiuBit5 | cfgAiuBit6 | cfgAiuBit7 | cfgAiuBit8 | cfgAiuBit9 | cfgAiuBit10 | cfgAiuBit11
  | cfgAiuBit12 | cfgAiuBit13 | cfgCabState => exact decode_encodeHost rfl
  | cfgRead reg =>
    have hreg : 20 ≤ reg.toNat := of_decide_eq_true h
    simp [decode, encode, hostRegInstr_none hreg]
  | cfgWrite reg v =>
    have hreg : 20 ≤ reg.toNat := of_decide_eq_true h
    simp [decode, encode, hostRegInstr_none hreg]

end Sys2Proof.Machine
end

section
/-! The codec in numbers: the 7-bit halves rejoined (rule R91), the address forms (rule R92), ASCII adjustment (rule
R95), the status map (rule R99) and the decimal fields (rule R100). -/

namespace Sys2Proof.Machine

/-! ### The halves rejoined -/

/-- The two halves share no bit of the result. -/
theorem join14_toNat (h l : Byte) : (join14 h l).toNat = h.toNat % 128 * 128 + l.toNat % 128 := by
  have hh : (h &&& 0x7F).toNat = h.toNat % 2 ^ 7 := and_lowMask_toNat h 7 rfl
  have hl : (l &&& 0x7F).toNat = l.toNat % 2 ^ 7 := and_lowMask_toNat l 7 rfl
  have hhigh : ((h &&& 0x7F).setWidth 14 <<< 7 : BitVec 14).toNat = (h.toNat % 2 ^ 7) <<< 7 := by
    rw [BitVec.toNat_shiftLeft, BitVec.toNat_setWidth, hh, Nat.shiftLeft_eq, Nat.shiftLeft_eq]
    omega
  have hlow : ((l &&& 0x7F).setWidth 14 : BitVec 14).toNat = l.toNat % 2 ^ 7 := by
    rw [BitVec.toNat_setWidth, hl]
    omega
  rw [join14, BitVec.toNat_or, hhigh, hlow, ← Nat.shiftLeft_add_eq_or_of_lt (Nat.mod_lt _ (Nat.two_pow_pos 7)),
    Nat.shiftLeft_eq]
  rfl

/-- Settles O2. -/
theorem sevenBitHalvesRejoin : Obligations.SevenBitHalvesRejoin := by
  intro v
  refine ⟨lo7_toNat v, hi7_toNat v, BitVec.eq_of_toNat_eq ?_⟩
  rw [join14_toNat, lo7_toNat, hi7_toNat, BitVec.toNat_setWidth]
  omega

/-! ### The address forms -/

/-- A legal address is encoded in the short form up to 127 and in the long form above. -/
theorem addrEnc_eq_addrBytes {a : Word16} (ha : a.toNat ≤ 9999) : addrEnc a = addrBytes a.toNat := by
  unfold addrEnc addrBytes
  by_cases hshort : a.toNat ≤ 127
  · have hshort' : a ≤ shortAddrMax := hshort
    rw [if_pos hshort', if_pos hshort, BitVec.ofNat_toNat]
    rfl
  · have hshort' : ¬ a ≤ shortAddrMax := hshort
    rw [if_neg hshort', if_neg hshort]
    refine Prod.ext (BitVec.eq_of_toNat_eq ?_) (BitVec.eq_of_toNat_eq ?_)
    · rw [hi7_toNat, BitVec.toNat_ofNat]
      omega
    · rw [lo7_toNat, BitVec.toNat_ofNat]
      omega

/-- A legal address is at most `78 * 128 + 15`, so a long form begins with at most 78, one below the short marker. -/
theorem addrBytes_long_ne_marker {a : Nat} (ha : a ≤ 9999) (hlong : 127 < a) : (addrBytes a).1 ≠ 0x4F := by
  rw [addrBytes, if_neg (by omega)]
  intro h
  have hn : a / 128 % 256 = 79 := congrArg BitVec.toNat h
  omega

/-- The marker tells the two forms apart, and within a form the bytes are the digits of the address to the base 128. -/
theorem addrBytes_injective {a b : Nat} (ha : a ≤ 9999) (hb : b ≤ 9999)
    (h : addrBytes a = addrBytes b) : a = b := by
  have shortMarker : ∀ {x : Nat}, x ≤ 127 → (addrBytes x).1 = 0x4F := fun hx => by
    rw [addrBytes, if_pos hx]
  rcases Nat.lt_or_ge 127 a with ha' | ha' <;> rcases Nat.lt_or_ge 127 b with hb' | hb'
  · rw [addrBytes, addrBytes, if_neg (by omega), if_neg (by omega)] at h
    have hhi := congrArg (fun p => p.1.toNat) h
    have hlo := congrArg (fun p => p.2.toNat) h
    simp only [BitVec.toNat_ofNat] at hhi hlo
    omega
  · exact absurd (h ▸ shortMarker hb') (addrBytes_long_ne_marker ha ha')
  · exact absurd (h ▸ shortMarker ha') (addrBytes_long_ne_marker hb hb')
  · rw [addrBytes, addrBytes, if_pos ha', if_pos hb'] at h
    have hlo := congrArg (fun p => p.2.toNat) h
    simp only [BitVec.toNat_ofNat] at hlo
    omega

/-- Settles O3. -/
theorem addressFormsAreDistinct : Obligations.AddressFormsAreDistinct := by
  intro a ha
  refine ⟨addrEnc_eq_addrBytes ha, fun hlong => ?_, fun b hb h => BitVec.eq_of_toNat_eq ?_⟩
  · rw [addrEnc_eq_addrBytes ha]
    exact addrBytes_long_ne_marker ha hlong
  · rw [addrEnc_eq_addrBytes ha, addrEnc_eq_addrBytes hb] at h
    exact addrBytes_injective ha hb h

/-! ### ASCII adjustment -/

theorem asciiAdj_toNat (b : Byte) :
    (asciiAdj b).toNat = if b.toNat / 32 % 2 = 1 then b.toNat % 64 else b.toNat % 128 := by
  have hv : (b &&& 0x7F).toNat = b.toNat % 2 ^ 7 := and_lowMask_toNat b 7 rfl
  have hvv : (b &&& 0x7F &&& 0x3F).toNat = b.toNat % 2 ^ 7 % 2 ^ 6 := by
    rw [and_lowMask_toNat _ 6 rfl, hv]
  have hbit : (b &&& 0x7F).getLsbD 5 = true ↔ b.toNat / 32 % 2 = 1 := by
    rw [BitVec.getLsbD, hv, Nat.testBit_eq_decide_div_mod_eq, decide_eq_true_eq]
    omega
  rw [asciiAdj]
  split_ifs with h h' h'
  · rw [hvv]; omega
  · exact absurd (hbit.1 h) h'
  · exact absurd (hbit.2 h') h
  · exact hv

/-- Settles O5: an adjusted byte has bit 7 clear, and bit 6 clear where bit 5 is set. -/
theorem asciiAdjustIsIdempotent : Obligations.AsciiAdjustIsIdempotent := by
  intro b
  refine ⟨asciiAdj_toNat b, ?_, BitVec.eq_of_toNat_eq ?_⟩
  · rw [asciiAdj_toNat]
    split <;> omega
  · rw [asciiAdj_toNat (asciiAdj b), asciiAdj_toNat b]
    split_ifs <;> omega

/-! ### The status map -/

/-- Settles O7: a field of two bits is below 4. -/
theorem replyStatusMapsToCode : Obligations.ReplyStatusMapsToCode := by
  intro r r1
  exact ⟨replyCode_eq_statusByte r r1, rfl, rfl, rfl, rfl, rfl, Nat.ne_of_lt (replyStatus r1).isLt⟩

/-! ### Decimal fields -/

/-- The digit of a character, as a number. -/
theorem dig_eq_digitVal (c : Byte) : (dig c).toNat = digitVal c := by
  unfold dig digitVal
  by_cases h : 0x30 ≤ c ∧ c ≤ 0x39
  · have h' : 48 ≤ c.toNat ∧ c.toNat ≤ 57 := h
    rw [if_pos h, if_pos h', BitVec.toNat_sub_of_le h.1]
    rfl
  · have h' : ¬ (48 ≤ c.toNat ∧ c.toNat ≤ 57) := h
    rw [if_neg h, if_neg h']
    rfl

theorem dec2_eq_digitVal (c1 c0 : Byte) :
    (dec2 c1 c0).toNat = 10 * digitVal c1 + digitVal c0 := by
  rw [dec2_toNat, dig_eq_digitVal, dig_eq_digitVal]

/-- Settles O6. -/
theorem decimalFieldValue : Obligations.DecimalFieldValue :=
  fun c1 c0 => ⟨dec2_eq_digitVal c1 c0, dec2_le c1 c0⟩

end Sys2Proof.Machine
end

section
/-! What the translator stages (rules R121 to R131, R135): each command of a class is one shared operation with the
class's parameters, and each operation stages sound frames or answers a range error. -/

namespace Sys2Proof.Machine

/-! ### Staged frames -/

theorem stagesOne_stage1 (s : State) (g0 g1 g2 g3 : Byte) (imm : Bool) :
    stagesOne s (.next { stage1 g0 g1 g2 g3 s with upTx := withOk imm s }) g0 g1 g2 g3 imm :=
  ⟨_, rfl, fillSlot_holds s.tx0 g0 g1 g2 g3, fillSlot_above s.tx0 g0 g1 g2 g3, rfl⟩

theorem stagesTwo_stage2 (s : State) (g0 g1 g2 g3 h0 h1 h2 h3 : Byte) (imm : Bool) :
    stagesTwo s (.next { stage2 g0 g1 g2 g3 h0 h1 h2 h3 s with upTx := withOk imm s }) g0 g1 g2 g3 h0 h1 h2 h3 imm :=
  ⟨_, rfl, fillSlot_holds s.tx0 g0 g1 g2 g3, fillSlot_holds s.tx1 h0 h1 h2 h3, fillSlot_above s.tx0 g0 g1 g2 g3,
    fillSlot_above s.tx1 h0 h1 h2 h3, rfl⟩

/-! ### Class FIXED -/

theorem stagesOne_fixedCmd (p : FixedParams) (g3 : Byte) (s : State) :
    stagesOne s (.next (fixedCmd p g3 s)) p.k0 p.k1 p.k2 g3 p.imm := by
  rw [fixedCmd_eq]
  exact stagesOne_stage1 s p.k0 p.k1 p.k2 g3 p.imm

theorem exec_upStatus (opc data : Byte) (s : State) :
    exec (.upStatus opc data) s = .next (fixedCmd (upClassOf s.cfg.up opc).fixedParams data s) := rfl

theorem exec_upMacro (opc data : Byte) (s : State) :
    exec (.upMacro opc data) s = .next (fixedCmd (upClassOf s.cfg.up opc).fixedParams data s) := rfl

theorem exec_upProgEnter (opc : Byte) (s : State) :
    exec (.upProgEnter opc) s =
      .next (fixedCmd (upClassOf s.cfg.up opc).fixedParams (upClassOf s.cfg.up opc).fixedParams.k3 s) := rfl

theorem exec_upProgExit (opc : Byte) (s : State) :
    exec (.upProgExit opc) s =
      .next (fixedCmd (upClassOf s.cfg.up opc).fixedParams (upClassOf s.cfg.up opc).fixedParams.k3 s) := rfl

/-- Settles O11, a clause per command. -/
theorem fixedCommandsStageOneFrame : Obligations.FixedCommandsStageOneFrame := by
  intro s opc data p
  refine ⟨fun h => ?_, fun h => ?_, fun h => ?_, fun h => ?_⟩
  · rw [exec_upStatus, h]; exact stagesOne_fixedCmd p data s
  · rw [exec_upMacro, h]; exact stagesOne_fixedCmd p data s
  · rw [exec_upProgEnter, h]; exact stagesOne_fixedCmd p p.k3 s
  · rw [exec_upProgExit, h]; exact stagesOne_fixedCmd p p.k3 s

/-! ### Class ADDR_CTRL -/

/-- Under a limit that leaves legal addresses only, the command is what the statements say of it in numbers. -/
theorem stagesAddr_addrCtrl {limit : Word16} (hlimit : limit.toNat ≤ 9999) (imm : Bool) (addr : Word16)
    (op data : Byte) (s : State) :
    stagesAddr s (.next (addrCtrl limit imm addr op data s)) limit.toNat imm addr.toNat op data := by
  unfold stagesAddr
  rcases addrCtrl_cases limit imm addr op data s with ⟨hrange, e⟩ | ⟨hrange, e⟩ <;> rw [e]
  · rw [if_pos (BitVec.lt_def.1 hrange)]
    exact answersUp_raiseCond s .addressOutOfRange
  · have haddr : addr.toNat ≤ limit.toNat := hrange
    rw [if_neg (Nat.not_lt.2 haddr), addrEnc_eq_addrBytes (haddr.trans hlimit), addrBytes]
    split
    · exact stagesOne_stage1 s _ _ op data imm
    · exact stagesOne_stage1 s _ _ op data imm

theorem exec_upLocoCtrl (opc : Byte) (addr : Word16) (op data : Byte) (s : State) :
    exec (.upLocoCtrl opc addr op data) s =
      .next (addrCtrl locoAddrMax (upClassOf s.cfg.up opc).addrImm addr op data s) := rfl

theorem exec_upAccCtrl (opc : Byte) (addr : Word16) (op data : Byte) (s : State) :
    exec (.upAccCtrl opc addr op data) s =
      .next (addrCtrl accAddrMax (upClassOf s.cfg.up opc).addrImm addr op data s) := rfl

/-- Settles O12. -/
theorem locoControlStagesOrRejects : Obligations.LocoControlStagesOrRejects := by
  intro s opc addr op data imm h
  rw [exec_upLocoCtrl, h]
  exact stagesAddr_addrCtrl (limit := locoAddrMax) (by decide) imm addr op data s

/-- Settles O13. -/
theorem accessoryControlStagesOrRejects : Obligations.AccessoryControlStagesOrRejects := by
  intro s opc addr op data imm h
  rw [exec_upAccCtrl, h]
  exact stagesAddr_addrCtrl (limit := accAddrMax) (by decide) imm addr op data s

/-! ### Class CV -/

/-- The packed CV and data as bytes of numbers; a base too high for the address wraps. -/
theorem cvPack_eq (base : Byte) (addr : Word16) (data : Byte) :
    cvPack base addr data =
      (BitVec.ofNat 8 (base.toNat + addr.toNat / 64), BitVec.ofNat 8 (addr.toNat % 64 * 2 + data.toNat / 128),
        BitVec.ofNat 8 (data.toNat % 128)) := by
  refine Prod.ext (BitVec.eq_of_toNat_eq ?_) (Prod.ext (BitVec.eq_of_toNat_eq ?_) (BitVec.eq_of_toNat_eq ?_))
  · simp only [cvPack, BitVec.toNat_add, BitVec.toNat_setWidth, BitVec.toNat_ushiftRight, BitVec.toNat_ofNat,
      Nat.shiftRight_eq_div_pow]
    omega
  · rw [cvPack_aL_toNat, BitVec.toNat_ofNat]
    omega
  · rw [cvPack_d7_toNat, BitVec.toNat_ofNat]
    omega

theorem stagesCv_cvCmd (p : CvParams) (addr : Word16) (data : Byte) (s : State) :
    stagesCv s (.next (cvCmd p addr data s)) p addr.toNat data.toNat := by
  unfold stagesCv
  rcases cvCmd_cases p addr data s with ⟨hrange, e⟩ | ⟨hrange, e⟩ <;> rw [e]
  · have hcv : 0x0FFF < addr.toNat := hrange
    rw [if_pos hcv]
    exact answersUp_raiseCond s .cvOutOfRange
  · have hcv : addr.toNat ≤ 0x0FFF := hrange
    rw [if_neg (Nat.not_lt.2 hcv), cvPack_eq]
    exact stagesOne_stage1 s _ _ _ _ p.imm

theorem exec_upCvProgPaged (opc : Byte) (addr : Word16) (data : Byte) (s : State) :
    exec (.upCvProgPaged opc addr data) s = .next (cvCmd (upClassOf s.cfg.up opc).cvParams addr data s) := rfl

theorem exec_upCvProgDirect (opc : Byte) (addr : Word16) (data : Byte) (s : State) :
    exec (.upCvProgDirect opc addr data) s = .next (cvCmd (upClassOf s.cfg.up opc).cvParams addr data s) := rfl

theorem exec_upCvReadPaged (opc : Byte) (addr : Word16) (s : State) :
    exec (.upCvReadPaged opc addr) s = .next (cvCmd (upClassOf s.cfg.up opc).cvParams addr 0 s) := rfl

theorem exec_upCvReadDirect (opc : Byte) (addr : Word16) (s : State) :
    exec (.upCvReadDirect opc addr) s = .next (cvCmd (upClassOf s.cfg.up opc).cvParams addr 0 s) := rfl

/-- Settles O14, a clause per command; a read is the command with data 0. -/
theorem cvCommandsStageOrReject : Obligations.CvCommandsStageOrReject := by
  intro s opc addr data p
  refine ⟨fun h => ?_, fun h => ?_, fun h => ?_, fun h => ?_⟩
  · rw [exec_upCvProgPaged, h]; exact stagesCv_cvCmd p addr data s
  · rw [exec_upCvProgDirect, h]; exact stagesCv_cvCmd p addr data s
  · rw [exec_upCvReadPaged, h]; exact stagesCv_cvCmd p addr 0 s
  · rw [exec_upCvReadDirect, h]; exact stagesCv_cvCmd p addr 0 s

/-- A register number is a CV address in range (rule R129). -/
theorem stagesOne_cvCmd_register (p : CvParams) (reg data : Byte) (s : State) :
    stagesOne s (.next (cvCmd p (reg.setWidth 16) data s)) p.busop (BitVec.ofNat 8 (p.base.toNat + reg.toNat / 64))
      (BitVec.ofNat 8 (reg.toNat % 64 * 2 + data.toNat / 128)) (BitVec.ofNat 8 (data.toNat % 128)) p.imm := by
  have hreg : (reg.setWidth 16).toNat = reg.toNat := BitVec.toNat_setWidth_of_le (by decide)
  have h := stagesCv_cvCmd p (reg.setWidth 16) data s
  rwa [hreg, stagesCv, if_neg (by omega)] at h

theorem exec_upRegProg (opc reg data : Byte) (s : State) :
    exec (.upRegProg opc reg data) s =
      .next (cvCmd (upClassOf s.cfg.up opc).cvParams (reg.setWidth 16) data s) := rfl

theorem exec_upRegRead (opc reg : Byte) (s : State) :
    exec (.upRegRead opc reg) s = .next (cvCmd (upClassOf s.cfg.up opc).cvParams (reg.setWidth 16) 0 s) := rfl

/-- Settles O15. -/
theorem registerCommandsStage : Obligations.RegisterCommandsStage := by
  intro s opc reg data p
  refine ⟨fun h => ?_, fun h => ?_⟩
  · rw [exec_upRegProg, h]; exact stagesOne_cvCmd_register p reg data s
  · rw [exec_upRegRead, h]; exact stagesOne_cvCmd_register p reg 0 s

/-! ### Class OPS -/

/-- Under a limit that leaves legal addresses only, the command is what the statements say of it in numbers. -/
theorem stagesOps_opsCmd {limit : Word16} (hlimit : limit.toNat ≤ 9999) (p : OpsParams) (addr cv : Word16)
    (data : Byte) (s : State) :
    stagesOps s (.next (opsCmd limit p addr cv data s)) limit.toNat p addr.toNat cv.toNat data.toNat := by
  unfold stagesOps
  rcases opsCmd_cases limit p addr cv data s with ⟨hrange, e⟩ | ⟨hrange, hcvRange, e⟩ | ⟨hrange, hcvRange, e⟩ <;>
    rw [e]
  · rw [if_pos (BitVec.lt_def.1 hrange)]
    exact answersUp_raiseCond s .addressOutOfRange
  · have haddr : addr.toNat ≤ limit.toNat := hrange
    have hcv : 0x0FFF < cv.toNat := hcvRange
    rw [if_neg (Nat.not_lt.2 haddr), if_pos hcv]
    exact answersUp_raiseCond s .cvOutOfRange
  · have haddr : addr.toNat ≤ limit.toNat := hrange
    have hcv : cv.toNat ≤ 0x0FFF := hcvRange
    rw [if_neg (Nat.not_lt.2 haddr), if_neg (Nat.not_lt.2 hcv), addrEnc_eq_addrBytes (haddr.trans hlimit), cvPack_eq]
    exact stagesTwo_stage2 s _ _ p.kOp p.kData _ _ _ _ p.imm

theorem exec_upOpsLoco (opc : Byte) (addr cv : Word16) (data : Byte) (s : State) :
    exec (.upOpsLoco opc addr cv data) s =
      .next (opsCmd locoAddrMax (upClassOf s.cfg.up opc).opsParams addr cv data s) := rfl

theorem exec_upOpsAcc (opc : Byte) (addr cv : Word16) (data : Byte) (s : State) :
    exec (.upOpsAcc opc addr cv data) s =
      .next (opsCmd accAddrMax (upClassOf s.cfg.up opc).opsParams addr cv data s) := rfl

/-- Settles O16. -/
theorem opsLocoStagesTwoOrRejects : Obligations.OpsLocoStagesTwoOrRejects := by
  intro s opc addr cv data p h
  rw [exec_upOpsLoco, h]
  exact stagesOps_opsCmd (limit := locoAddrMax) (by decide) p addr cv data s

/-- Settles O17. -/
theorem opsAccessoryStagesTwoOrRejects : Obligations.OpsAccessoryStagesTwoOrRejects := by
  intro s opc addr cv data p h
  rw [exec_upOpsAcc, h]
  exact stagesOps_opsCmd (limit := accAddrMax) (by decide) p addr cv data s

/-! ### Every upstream packet -/

theorem slotSound_fillSlot (t : TxSlot) (g0 g1 g2 g3 : Byte) : slotSound (fillSlot t g0 g1 g2 g3) :=
  holdsFrame_sound (fillSlot_holds t g0 g1 g2 g3)

/-- Settles O18: an upstream unit emits one packet, or stages one frame or two. -/
theorem translatorStagesSoundFrames : Obligations.TranslatorStagesSoundFrames := by
  intro c s t p i hd he
  rcases upUnit_cases (decode_up_unit hd) he with ⟨q, rfl⟩ | ⟨g0, g1, g2, g3, imm, rfl⟩ |
    ⟨g0, g1, g2, g3, h0, h1, h2, h3, imm, rfl⟩
  · exact ⟨rfl, .inl ⟨rfl, rfl, q, rfl⟩⟩
  · exact ⟨rfl, .inr ⟨rfl, slotSound_fillSlot s.tx0 g0 g1 g2 g3, .inl rfl, imm, rfl⟩⟩
  · exact ⟨rfl, .inr ⟨rfl, slotSound_fillSlot s.tx0 g0 g1 g2 g3, slotSound_fillSlot s.tx1 h0 h1 h2 h3, imm, rfl⟩⟩

end Sys2Proof.Machine
end

section
/-! What a poll byte selects (rules R151, R160), and that a reply's unnamed bits do not matter (rule R67). -/

namespace Sys2Proof.Machine

/-! ### The poll state -/

theorem pollTurn_of_broadcast {a : BitVec 6} (h0 : a = 0) (s : State) :
    pollTurn a s = { s with ibCnt := 0, cabState := .execBroadcastCmd } := if_pos h0

theorem pollTurn_of_other {a : BitVec 6} {s : State} (h0 : a ≠ 0) (ha : a ≠ s.cabAddr) :
    pollTurn a s = { s with ibCnt := 0, cabState := .pingOther } := (if_neg h0).trans (if_pos ha)

/-- This node's turn leaves it in the state that accepts commands. -/
theorem pollTurn_addressed_cabState {s : State} {a : BitVec 6} (h0 : a ≠ 0) (ha : a = s.cabAddr) :
    (pollTurn a s).cabState = .execMyCmd := by
  rw [pollTurn_addressed h0 ha, pollReact_frame]
  rfl

/-- Settles O19, a clause per kind of address. -/
theorem pollByteSelectsState : Obligations.PollByteSelectsState := by
  intro s a
  refine ⟨?broadcast, ?other, ?own⟩
  case broadcast =>
    intro h0
    rw [exec_poll, pollTurn_of_broadcast h0]
  case other =>
    intro h0 ha
    rw [exec_poll, pollTurn_of_other h0 ha]
  case own =>
    intro h0 ha
    have hstate := pollTurn_addressed_cabState h0 ha
    have hwrites := pollTurn_writes a s
    rw [hstate] at hwrites
    refine ⟨pollTurn a s, exec_poll a s, hstate, ?_, ?_, ?_, ?_⟩ <;> rw [hwrites]

/-! ### The bits that a reply's fields name -/

theorem unp26_congr {x x' y y' : Byte} (hx : x.toNat % 4 = x'.toNat % 4) (hy : y.toNat % 64 = y'.toNat % 64) :
    unp26 x y = unp26 x' y' := by
  rw [unp26_eq, unp26_eq, hx, hy]

theorem unp44_congr {x x' y y' : Byte} (hx : x.toNat % 16 = x'.toNat % 16) (hy : y.toNat % 64 = y'.toNat % 64) :
    unp44 x y = unp44 x' y' := by
  have hy' : y.toNat / 4 % 16 = y'.toNat / 4 % 16 := by omega
  rw [unp44_eq, unp44_eq, hx, hy']

theorem unp62_congr {x x' y y' : Byte} (hx : x.toNat % 64 = x'.toNat % 64) (hy : y.toNat % 64 = y'.toNat % 64) :
    unp62 x y = unp62 x' y' := by
  have hy' : y.toNat / 16 % 4 = y'.toNat / 16 % 4 := by omega
  rw [unp62_eq, unp62_eq, hx, hy']

theorem replyCode_congr (r : RspCfg) {x x' : Byte} (h : x.toNat / 16 % 4 = x'.toNat / 16 % 4) :
    replyCode r x = replyCode r x' := by
  rw [replyCode_eq_statusByte, replyCode_eq_statusByte, h]

/-- Settles O26: every value and the status are functions of the named bits. -/
theorem replyIgnoresUnnamedBits : Obligations.ReplyIgnoresUnnamedBits := by
  intro s r1 r2 q1 q2 x3 x4 x5 x6 y3 y4 y5 y6 hstatus h1 h2 h3 h4 h5 h6
  have hcode : replyCode s.cfg.rsp r1 = replyCode s.cfg.rsp q1 := replyCode_congr s.cfg.rsp hstatus
  refine ⟨?d8, ?da, ?d9⟩
  case d8 => rw [exec_replyD8, exec_replyD8, unpD8, unpD8, hcode, unp26_congr h1 h2]
  case da =>
    rw [exec_replyDA, exec_replyDA, unpDA, unpDA, hcode, unp26_congr h1 h2, unp62_congr h3 h4,
      unp44_congr (x := x4) (x' := y4) (by omega) h5, unp26_congr (x := x5) (x' := y5) (by omega) h6]
  case d9 =>
    intro h1'
    rw [exec_replyD9, exec_replyD9, unpD9, unpD9, hcode, unp44_congr (x := r1) (x' := q1) (by omega) h2,
      unp26_congr (x := r2) (x' := q2) (by omega) h3]

end Sys2Proof.Machine
end

section
/-! What the inbound commands do (rules R171 to R179): one event, one answer, or an update of the fast clock. -/

namespace Sys2Proof.Machine

/-! ### Text and cursor commands -/

theorem raisesEvent_emitEvt (s : State) (e : Event) : raisesEvent s (.next (emitEvt e s)) e := rfl

/-- A text block's column and row in numbers (rule R172). -/
theorem lcdColRow_eq (opc : Byte) :
    lcdColRow opc = (BitVec.ofNat 8 (opc.toNat % 2 * 8), BitVec.ofNat 8 (opc.toNat / 2 % 2)) := by
  have hpos : (lcdPos opc).toNat = opc.toNat % 4 := by
    rw [lcdPos, BitVec.extractLsb'_toNat, Nat.shiftRight_zero]
  have h0 : (lcdPos opc).getLsbD 0 = decide (opc.toNat % 2 = 1) := by
    rw [BitVec.getLsbD, hpos, Nat.testBit_eq_decide_div_mod_eq]
    exact decide_eq_decide.2 (by omega)
  have h1 : (lcdPos opc).getLsbD 1 = decide (opc.toNat / 2 % 2 = 1) := by
    rw [BitVec.getLsbD, hpos, Nat.testBit_eq_decide_div_mod_eq]
    exact decide_eq_decide.2 (by omega)
  rw [lcdColRow, h0, h1]
  rcases Nat.mod_two_eq_zero_or_one opc.toNat with e0 | e0 <;>
    rcases Nat.mod_two_eq_zero_or_one (opc.toNat / 2) with e1 | e1 <;> rw [e0, e1] <;> rfl

theorem raisesEvent_lcdText (opc : Byte) (text : List Byte) (s : State) :
    raisesEvent s (.next (lcdText opc text s))
      (.lcdUpdate (BitVec.ofNat 8 (opc.toNat % 2 * 8)) (BitVec.ofNat 8 (opc.toNat / 2 % 2)) text 8) := by
  rw [lcdText, lcdColRow_eq]
  exact raisesEvent_emitEvt s _

/-- Settles O27: the four rows are one operation, which reads the position from the opcode. -/
theorem textBlocksRaiseUpdate : Obligations.TextBlocksRaiseUpdate := by
  intro s opc text
  have h := raisesEvent_lcdText opc text s
  exact ⟨h, h, h, h⟩

/-- Settles O28. -/
theorem cursorModesAndTeletypeRaiseOneEvent : Obligations.CursorModesAndTeletypeRaiseOneEvent := by
  intro s opc ch
  have h := raisesEvent_emitEvt s
  exact ⟨h _, h _, h _, h _, h _, h _, h _, rfl⟩

/-- The decoding of a configuration that lists no difference (rule R176). -/
theorem cursorDecode_default {c : IbCfg} (h : c.cursorTable = []) (p : Byte) :
    cursorDecode c p = (BitVec.ofNat 8 (p.toNat % 16), BitVec.ofNat 8 (p.toNat / 16 % 4)) := by
  simp only [cursorDecode, h, List.find?_nil]
  refine Prod.ext (BitVec.eq_of_toNat_eq ?_) (BitVec.eq_of_toNat_eq ?_) <;>
    simp only [BitVec.toNat_setWidth, BitVec.extractLsb'_toNat, BitVec.toNat_ofNat, Nat.shiftRight_eq_div_pow]
  all_goals omega

theorem exec_ibCursorMove (opc p : Byte) (s : State) :
    exec (.ibCursorMove opc p) s =
      .next (emitEvt (.lcdMoveCursor (cursorDecode s.cfg.ib p).1 (cursorDecode s.cfg.ib p).2) s) := rfl

/-- Settles O29. -/
theorem cursorMoveRaisesDecodedPosition : Obligations.CursorMoveRaisesDecodedPosition := by
  intro s opc p
  refine ⟨?_, fun hdefault => ?_⟩
  · rw [exec_ibCursorMove]
    exact raisesEvent_emitEvt s _
  · rw [exec_ibCursorMove, cursorDecode_default hdefault]
    exact raisesEvent_emitEvt s _

/-! ### The cab-type query -/

theorem exec_ibCabTypeQuery (opc : Byte) (s : State) :
    exec (.ibCabTypeQuery opc) s = .next (emitBus [s.cabType] s) := rfl

/-- Settles O30. -/
theorem cabTypeQueryAnswers : Obligations.CabTypeQueryAnswers := by
  intro s opc
  rw [exec_ibCabTypeQuery]
  rfl

/-! ### The fast clock -/

theorem exec_ibFcTime (opc : Byte) (text : List Byte) (s : State) :
    exec (.ibFcTime opc text) s = .next (fcTime opc text s) := rfl

/-- A decimal field as the byte of its number. -/
theorem dec2_eq_ofNat (c1 c0 : Byte) : dec2 c1 c0 = BitVec.ofNat 8 (10 * digitVal c1 + digitVal c0) := by
  rw [← dec2_eq_digitVal, BitVec.ofNat_toNat, BitVec.setWidth_eq]

/-- A time broadcast establishes a mode, so its event waits for the rate alone (rule R178). -/
theorem fastClockDue_fcTimeCache (opc : Byte) (text : List Byte) (s : State) :
    fastClockDue (fcTimeCache opc text s) = true ↔ s.fcRate ≠ 0 := by
  have hmode : (fcTimeCache opc text s).fcMode ≠ .none := fcModeOf_established _
  simp [fastClockDue, clockEstablished, hmode]

/-- The time broadcast writes the cache, and appends the event where the rate is not 0. -/
theorem fcTime_eq (opc : Byte) (text : List Byte) (s : State) :
    fcTime opc text s =
      { fcTimeCache opc text s with
        evt := if s.fcRate = 0 then s.evt
          else s.evt ++ [.fastClock (fcTimeCache opc text s).fcHours (fcTimeCache opc text s).fcMinutes s.fcRate
            (fcTimeCache opc text s).fcMode] } := by
  have hdue := fastClockDue_fcTimeCache opc text s
  rcases fcTime_cases opc text s with ⟨h, e⟩ | ⟨h, e⟩ <;> rw [e]
  · rw [if_neg (hdue.1 h)]
    rfl
  · have hrate : s.fcRate = 0 := by_contra fun hne => Bool.eq_false_iff.1 h (hdue.2 hne)
    rw [if_pos hrate]
    rfl

/-- Settles O31. -/
theorem fastClockTimeUpdatesCache : Obligations.FastClockTimeUpdatesCache := by
  intro s opc text q hours minutes mode
  have hhours : (fcTimeCache opc text s).fcHours = hours := dec2_eq_ofNat _ _
  have hminutes : (fcTimeCache opc text s).fcMinutes = minutes := dec2_eq_ofNat _ _
  have hmode : (fcTimeCache opc text s).fcMode = mode := rfl
  have hcache : fcTimeCache opc text s = { s with fcHours := hours, fcMinutes := minutes, fcMode := mode } := by
    rw [← hhours, ← hminutes, ← hmode]
    rfl
  rw [exec_ibFcTime, fcTime_eq, hcache]

theorem exec_ibFcRate (opc r : Byte) (s : State) : exec (.ibFcRate opc r) s = .next (fcRateCmd r s) := rfl

/-- The rate is the low six bits of its byte (rule R179). -/
theorem fcRateOf_eq (r : Byte) : fcRateOf r = BitVec.ofNat 8 (r.toNat % 64) := by
  apply BitVec.eq_of_toNat_eq
  rw [fcRateOf, and_lowMask_toNat r 6 rfl, BitVec.toNat_ofNat]
  omega

theorem fastClockDue_iff (s : State) : fastClockDue s = true ↔ s.fcMode ≠ .none ∧ s.fcRate ≠ 0 := by
  simp [fastClockDue, clockEstablished]

/-- Settles O32: the three clauses are the three things that the rate broadcast can do. -/
theorem fastClockRateUpdatesOnChange : Obligations.FastClockRateUpdatesOnChange := by
  intro s opc r rate
  have hdue := fastClockDue_iff { s with fcRate := rate }
  have hcases := fcRateCmd_cases r s
  rw [fcRateOf_eq r] at hcases
  rw [exec_ibFcRate]
  rcases hcases with ⟨hsame, e⟩ | ⟨hchanged, hquiet, e⟩ | ⟨hchanged, hevent, e⟩ <;> rw [e]
  · exact ⟨fun _ => rfl, fun hne => absurd hsame hne, fun hne => absurd hsame hne⟩
  · exact ⟨fun h => absurd h hchanged, fun _ h => absurd (hdue.2 h) (Bool.eq_false_iff.1 hquiet), fun _ _ => rfl⟩
  · exact ⟨fun h => absurd h hchanged, fun _ _ => rfl, fun _ h => absurd (hdue.1 hevent) h⟩

end Sys2Proof.Machine
end

section
/-! What a host write does, by the number of its register, and that the generic accesses follow the register map
(rules R200 to R208). -/

namespace Sys2Proof.Machine

/-! ### Writes -/

/-- A write row does to the state what the write of its number does. -/
theorem exec_write_of_hostRegInstr {reg : Byte} {i : Instr} {v : Word16} (h : hostRegInstr (.write v) reg = some i)
    (s : State) : exec i s = .next (regWrite s reg v) := exec_hostRegInstr h s

/-- Settles O35, a clause per register. -/
theorem hostWritesTruncate : Obligations.HostWritesTruncate := by
  intro s v
  refine ⟨?_, ?_, ?_, ?_, ?_, ?_⟩
  · rw [exec_write_of_hostRegInstr (reg := 0) rfl, BitVec.ofNat_toNat]; rfl
  · rw [exec_write_of_hostRegInstr (reg := 1) rfl, BitVec.ofNat_toNat]; rfl
  · rw [exec_write_of_hostRegInstr (reg := 2) rfl, BitVec.ofNat_toNat]; rfl
  · rw [exec_write_of_hostRegInstr (reg := 3) rfl, BitVec.ofNat_toNat]; rfl
  · rw [exec_write_of_hostRegInstr (reg := 4) rfl, BitVec.ofNat_toNat]; rfl
  · rw [exec_write_of_hostRegInstr (reg := 19) rfl]; rfl

/-- The numbers 5 to 18 write the bits of `aiu`, the lowest first. -/
theorem regWrite_aiuBitReg (s : State) (n : Fin 14) (v : Word16) :
    regWrite s (aiuBitReg n) v = { s with aiu := aiuWithBit s.aiu n.val v } := by
  fin_cases n <;> rfl

/-- One bit is bit 0 of the value, and the others are as before (rule R207). -/
theorem aiuWithBit_getLsbD (aiu : BitVec 14) {n j : Nat} (v : Word16) (hn : n < 14) (hj : j < 14) :
    (aiuWithBit aiu n v).getLsbD j = if j = n then v.getLsbD 0 else aiu.getLsbD j := by
  have hone : (1#14 <<< n).getLsbD j = decide (j = n) := by
    rw [← BitVec.twoPow_eq, BitVec.getLsbD_twoPow]
    simp [hn, eq_comm]
  unfold aiuWithBit
  cases v.getLsbD 0 with
  | true =>
    rw [if_pos rfl, BitVec.getLsbD_or, hone]
    by_cases hjn : j = n <;> simp [hjn]
  | false =>
    rw [if_neg Bool.false_ne_true, BitVec.getLsbD_and, BitVec.getLsbD_not, hone]
    by_cases hjn : j = n <;> simp [hjn, hj]

/-- Settles O36. -/
theorem aiuBitWriteSetsOneBit : Obligations.AiuBitWriteSetsOneBit := by
  intro s n v
  refine ⟨{ s with aiu := aiuWithBit s.aiu n.val v }, ?_, rfl, fun j hj => aiuWithBit_getLsbD s.aiu v n.isLt hj⟩
  rw [exec_write_of_hostRegInstr (hostRegInstr_aiuBitReg n (.write v)), regWrite_aiuBitReg]

/-! ### The generic accesses -/

theorem exec_cfgRead (reg : Byte) (s : State) : exec (.cfgRead reg) s = .next (hostAccess reg .read s) := rfl

theorem exec_cfgWrite (reg : Byte) (v : Word16) (s : State) :
    exec (.cfgWrite reg v) s = .next (hostAccess reg (.write v) s) := rfl

/-- Every number below 20 has a row (rule R200). -/
theorem hostRegInstr_some {reg : Byte} (h : reg.toNat < 20) (a : HostAccess) : ∃ i, hostRegInstr a reg = some i := by
  obtain ⟨k, rfl⟩ : ∃ k : Fin 20, reg = BitVec.ofNat 8 k.val := ⟨⟨reg.toNat, h⟩, by simp⟩
  fin_cases k <;> exact ⟨_, rfl⟩

/-- A number from 20 on is no register of the map. -/
theorem unmapped_ne {reg k : Byte} (h : 20 ≤ reg.toNat) (hk : k.toNat < 20) : reg ≠ k := by
  rintro rfl
  omega

theorem regRead_unmapped {reg : Byte} (h : 20 ≤ reg.toNat) (s : State) : regRead s reg = 0 := by
  rw [regRead, if_neg (unmapped_ne h (by decide)), if_neg (unmapped_ne h (by decide)),
    if_neg (unmapped_ne h (by decide)), if_neg (unmapped_ne h (by decide)), if_neg (unmapped_ne h (by decide)),
    if_neg (by omega), if_neg (unmapped_ne h (by decide))]

theorem regWrite_unmapped {reg : Byte} (h : 20 ≤ reg.toNat) (s : State) (v : Word16) : regWrite s reg v = s := by
  rw [regWrite, if_neg (unmapped_ne h (by decide)), if_neg (unmapped_ne h (by decide)),
    if_neg (unmapped_ne h (by decide)), if_neg (unmapped_ne h (by decide)), if_neg (unmapped_ne h (by decide)),
    if_neg (by omega)]

/-- Settles O37: on a mapped number the row is the access to that number. -/
theorem genericAccessFollowsRegisterMap : Obligations.GenericAccessFollowsRegisterMap := by
  intro s reg v
  refine ⟨fun hreg => ⟨?_, ?_⟩, fun hreg => ?_⟩
  · rw [exec_cfgRead, hostAccess, regRead_unmapped hreg]
    rfl
  · rw [exec_cfgWrite, hostAccess, regWrite_unmapped hreg]
  · obtain ⟨i, hi⟩ := hostRegInstr_some hreg .read
    obtain ⟨j, hj⟩ := hostRegInstr_some hreg (.write v)
    refine ⟨i, j, hi, hj, ?_, ?_⟩
    · rw [exec_cfgRead, exec_hostRegInstr hi]
    · rw [exec_cfgWrite, exec_hostRegInstr hj]

end Sys2Proof.Machine
end

section
/-! RESET (rule R240), and the state before the first step. -/

namespace Sys2Proof.Machine

theorem exec_reset (s : State) : exec .reset s = .next (resetState s) := rfl

/-- RESET at the state of rule R240, with nothing presented or emitted, gives that state. -/
theorem resetState_resetOf (c : Cfg) : resetState (State.resetOf c) = State.resetOf c := rfl

/-- Settles O38. -/
theorem resetStepRestoresTable : Obligations.ResetStepRestoresTable := by
  refine ⟨?_, fun s => ⟨resetState s, exec_reset s, ?_⟩⟩
  · rw [exec_reset, State.reset, resetState_resetOf]
  · exact ⟨rfl, rfl, rfl, rfl, rfl, rfl, rfl, rfl, rfl, rfl, rfl, rfl, rfl, rfl, rfl, rfl, resetState_cfg s,
      resetState_inputs s, resetState_upTx s, resetState_busTx s, resetState_evt s, resetState_hostOut s⟩

/-- With no packet, command, reply or frame in progress the state is quiescent (rule R244). -/
theorem quiescent_resetOf (c : Cfg) : quiescent (State.resetOf c) = true := rfl

/-- Settles O39. -/
theorem resetStateValues : Obligations.ResetStateValues :=
  ⟨rfl, rfl, rfl, rfl, rfl, rfl, rfl, rfl, rfl, rfl, rfl, rfl, rfl, rfl, rfl, rfl, quiescent_resetOf cfgDefault⟩

end Sys2Proof.Machine
end

section
/-! What a step may change, by its transaction (rules R115, R150, R160), and that the two bus machines commute. -/

namespace Sys2Proof.Machine

/-! ### One byte -/

/-- What a step on an upstream byte answers, the assembler answers. -/
theorem upFeed_of_step {s t : State} {b : Byte} {rest : List Input} (hi : s.inputs = .upByte b :: rest)
    (h : step s = .next t) : upFeed b { s with inputs := rest } = .next t := by
  obtain ⟨hw, _⟩ := step_cases h
  rwa [step_of_inputs hw hi] at h

/-- What a step on a bus byte answers, the machines it is routed to answer, one after the other. -/
theorem busFeed_of_step {s t : State} {b : Byte} {p r : Bool} {rest : List Input}
    (hi : s.inputs = .busByte b p r :: rest) (h : step s = .next t) :
    ∃ u, (if p then pcFeed b { s with inputs := rest } else .next { s with inputs := rest }) = .next u ∧
      (if r then raFeed b u else .next u) = .next t := by
  obtain ⟨hw, _⟩ := step_cases h
  rw [step_of_inputs hw hi] at h
  exact busFeed_next h

/-- Settles O44: the frame of the upstream assembler. -/
theorem upstreamSideIsIndependent : Obligations.UpstreamSideIsIndependent := by
  intro s t b rest hi h
  exact upFeed_frame (upFeed_of_step hi h)

/-- The two frames of a byte that both bus machines take, together. -/
theorem eq_of_pcFrame_replyFrame {s u t : State} (hpc : pcFrame s u) (hra : replyFrame u t) :
    t = { s with
      cabState := t.cabState, ibCnt := t.ibCnt, ibLen := t.ibLen, ibBuf := t.ibBuf,
      tx0 := { s.tx0 with cnt := t.tx0.cnt }, tx1 := { s.tx1 with cnt := t.tx1.cnt }, key := t.key,
      fcHours := t.fcHours, fcMinutes := t.fcMinutes, fcRate := t.fcRate, fcMode := t.fcMode,
      busTx := t.busTx, evt := t.evt,
      raActive := t.raActive, raSize := t.raSize, raCnt := t.raCnt, raBuf := t.raBuf, upTx := t.upTx } := by
  unfold replyFrame at hra
  unfold pcFrame at hpc
  rw [hra, hpc]

/-- Settles O45, a clause per routing: the frames of the machines that take the byte. -/
theorem busMachinesShareNoState : Obligations.BusMachinesShareNoState := by
  intro s t b rest
  refine ⟨fun hi h => ?_, fun hi h => ?_, fun hi h => ?_, fun hi h => ?_⟩ <;>
    obtain ⟨u, hpc, hra⟩ := busFeed_of_step hi h
  · cases hpc
    exact raFeed_frame hra
  · cases hra
    exact pcFeed_frame hpc
  · exact eq_of_pcFrame_replyFrame (pcFeed_frame hpc) (raFeed_frame hra)
  · cases hpc
    cases hra
    rfl

/-! ### The order of the two bus machines -/

theorem replyAgree_symm {s x : State} : replyAgree s x → replyAgree x s := by
  rintro ⟨hcfg, hup, hactive, hsize, hcnt, hbuf⟩
  exact ⟨hcfg.symm, hup.symm, hactive.symm, hsize.symm, hcnt.symm, hbuf.symm⟩

/-- Settles O46: neither machine reads what the other writes, so each answers in the other order what it answers in
this one. -/
theorem busMachinesCommute : Obligations.BusMachinesCommute := by
  intro s u t b hpc hra
  have hpcFrame : pcFrame s u := pcFeed_frame hpc
  have hraFrame : replyFrame u t := raFeed_frame hra
  have hinputs : u.inputs = s.inputs := by rw [show u = _ from hpcFrame]
  have ht : replyInputsOf s.inputs t u = t := by
    rw [← hinputs]
    exact hraFrame.symm
  have hafter := pcFeed_reads s.inputs t hpc
  rw [ht] at hafter
  exact ⟨replyOf t s, raFeed_reads hra s (replyAgree_symm (replyAgree_of_pcFrame hpcFrame)), hafter⟩

/-! ### The state UNKNOWN -/

/-- A poll byte, whoever's it is, leaves UNKNOWN (rule R160). -/
theorem pollTurn_cabState_ne_unknown (a : BitVec 6) (s : State) : (pollTurn a s).cabState ≠ .unknown := by
  rcases pollTurn_cases a s with ⟨_, e⟩ | ⟨_, _, e⟩ | ⟨h0, ha, _⟩
  · rw [e]; exact nofun
  · rw [e]; exact nofun
  · rw [pollTurn_addressed_cabState h0 ha]; exact nofun

/-- A unit of the poll/command machine that is no poll leaves `cab_state`. -/
theorem pcUnit_cabState {m : CabState} {p : List Byte} {s t : State} (h : runUnit (.pc m p) s = .next t) :
    t.cabState = s.cabState ∨ t.cabState ≠ .unknown := by
  rcases pcUnit_cases h with rfl | ⟨a, rfl⟩ | ⟨e, rfl⟩ | ⟨q, rfl⟩ | ⟨opc, text, rfl⟩ | ⟨r, rfl⟩
  · exact .inl rfl
  · exact .inr (pollTurn_cabState_ne_unknown a s)
  · exact .inl rfl
  · exact .inl rfl
  · left; rw [fcTime_frame]
  · left; rw [fcRateCmd_frame]

theorem pcFeed_cabState {b : Byte} {s t : State} (h : pcFeed b s = .next t) :
    t.cabState = s.cabState ∨ t.cabState ≠ .unknown := by
  have hstored : (ibStore b (ibLatch b s)).cabState = s.cabState := by rw [ibStore_eq]
  rcases pcFeed_cases h with h | ⟨_, _, ⟨_, rfl⟩ | ⟨p, v, hv, rfl⟩⟩
  · exact pcUnit_cabState h
  · exact .inl hstored
  · rw [ibClear_cabState, ← hstored]; exact pcUnit_cabState hv

theorem upFrame_cabState {s t : State} (h : upFrame s t) : t.cabState = s.cabState := by
  unfold upFrame at h; rw [h]

theorem replyFrame_cabState {s t : State} (h : replyFrame s t) : t.cabState = s.cabState := by
  unfold replyFrame at h; rw [h]

theorem hostFrame_cabState {s t : State} (h : hostFrame s t) : t.cabState = s.cabState := by
  unfold hostFrame at h; rw [h]

/-- A step that consumes no RESET leaves `cab_state` or sets it to a state other than UNKNOWN. -/
theorem step_cabState {s t : State} (h : step s = .next t) (hr : s.inputs.head? ≠ some .reset) :
    t.cabState = s.cabState ∨ t.cabState ≠ .unknown := by
  obtain ⟨_, hstep⟩ := step_cases h
  cases hstep with
  | idle _ ht => exact .inl (by rw [ht])
  | up b rest _ hup => exact .inl (upFrame_cabState (s := { s with inputs := rest }) (upFeed_frame hup))
  | bus b p r rest u _ hpc hra =>
    have hu : u.cabState = s.cabState ∨ u.cabState ≠ .unknown := by
      cases p with
      | false => cases hpc; exact .inl rfl
      | true => exact pcFeed_cabState (s := { s with inputs := rest }) hpc
    cases r with
    | false => cases hra; exact hu
    | true => rw [replyFrame_cabState (raFeed_frame hra)]; exact hu
  | read reg rest _ ht =>
    rw [ht]
    exact .inl (hostFrame_cabState (s := { s with inputs := rest }) (hostAccess_frame _ reg .read))
  | write reg v rest _ ht =>
    rw [ht]
    exact .inl (hostFrame_cabState (s := { s with inputs := rest }) (hostAccess_frame _ reg (.write v)))
  | reset rest hi _ => rw [hi] at hr; exact absurd rfl hr

/-- Settles O47. -/
theorem unknownIsEnteredByResetOnly : Obligations.UnknownIsEnteredByResetOnly := by
  intro s t h hr ht
  rcases step_cabState h hr with e | e
  · rw [← e]; exact ht
  · exact absurd ht e

/-! ### Steps that run nothing -/

/-- Settles O55. -/
theorem idleStepChangesNothing : Obligations.IdleStepChangesNothing := fun _ hw hi => step_of_idle hw hi

theorem step_of_illFormed {s : State} (hw : s.cfg.wellFormed = false) : step s = .refused .illFormedCfg :=
  if_neg (by rw [hw]; exact Bool.false_ne_true)

theorem cfgDefault_wellFormed : cfgDefault.wellFormed = true := by decide

/-- Settles O56. -/
theorem illFormedConfigurationIsRefused : Obligations.IllFormedConfigurationIsRefused :=
  ⟨fun _ hw => step_of_illFormed hw, cfgDefault_wellFormed⟩

end Sys2Proof.Machine
end

section
/-! What well-formedness says of the tables, byte by byte (rule R1), and wire units written out from the spec. -/

namespace Sys2Proof.Machine

/-! ### The parts of a well-formed configuration -/

theorem wellFormed_iff (c : Cfg) :
    c.wellFormed = true ↔ c.up.ok = true ∧ c.rsp.distinct = true ∧ c.ib.ok = true ∧ c.dev.ok = true := by
  simp only [Cfg.wellFormed, Bool.and_eq_true, and_assoc]

theorem allDistinct_iff_nodup (l : List Byte) : allDistinct l = true ↔ l.Nodup := by
  induction l with
  | nil => simp [allDistinct]
  | cons b rest ih => simp [allDistinct, ih]

/-- Rule R1 (a). -/
theorem upRange_of_ok {u : UpCfg} (h : u.ok = true) : u.base ≤ u.high := by
  simp only [UpCfg.ok, Bool.and_eq_true, decide_eq_true_eq] at h
  obtain ⟨hrange, _⟩ := h
  exact hrange

/-- Rule R1 (f), (g). -/
theorem devCodes_of_ok {d : DevCfg} (h : d.ok = true) :
    [d.cabTypeLcd, d.cabTypeNoLcd, d.cabTypeSmart, d.cabTypeAiu, d.cabTypeReserved, d.cabTypeBridge1,
      d.cabTypeBridge2, d.cabTypeUnknown].Nodup ∧ d.noKey.toNat ≤ 126 := by
  simp only [DevCfg.ok, Bool.and_eq_true, decide_eq_true_eq, allDistinct_iff_nodup] at h
  exact h

/-! ### The tables as functions of a byte -/

/-- Rule R1 (b): an opcode of the range has a length that fits the assembler's buffer. -/
theorem upLen_bounds {c : Cfg} (hw : c.wellFormed = true) {b : Byte} (hr : upInRange c.up b = true) :
    1 ≤ (upLen c.up b).toNat ∧ (upLen c.up b).toNat ≤ 11 := by
  have h := upPacketLen_bounds hw b
  rwa [upPacketLen_of_inRange hw hr] at h

/-- Rule R1 (d): the base of a class leaves room for the six high address bits. -/
theorem cvBase_le {c : Cfg} (hw : c.wellFormed = true) {b base : Byte}
    (h : (upClassOf c.up b).cvBase = some base) : base.toNat + 63 ≤ 255 := by
  unfold upClassOf at h
  cases he : upEntry c.up b with
  | none => rw [he] at h; cases h
  | some e =>
    have hok := upEntry_ok hw he
    rw [he] at h
    simp only [UpEntry.ok, h, Bool.and_eq_true, decide_eq_true_eq] at hok
    obtain ⟨_, hbase⟩ := hok
    exact hbase

/-- Rule R1 (c): a poll byte is no inbound opcode. -/
theorem ibLen_of_isPoll {c : Cfg} (hw : c.wellFormed = true) (m : IbMode) {b : Byte} (hp : isPoll b = true) :
    ibLen c.ib m b = 0 := by
  have len_eq : ∀ {l f}, ibEntryOk b l f = true → l = 0 := by
    intro l f h
    simp only [ibEntryOk, hp, Bool.and_eq_true, Bool.not_true, Bool.false_or, beq_iff_eq] at h
    obtain ⟨⟨_, hlen⟩, _⟩ := h
    exact hlen
  cases m <;> simp only [ibLen] <;> split
  · next e he => exact len_eq (addrEntry_ok hw he)
  · rfl
  · next e he => exact len_eq (bcastEntry_ok hw he)
  · rfl

/-- Settles O57, a clause per part of rule R1. -/
theorem wellFormedTablesMeetRule : Obligations.WellFormedTablesMeetRule := by
  intro c b hw
  obtain ⟨hup, hrsp, _, hdev⟩ := (wellFormed_iff c).1 hw
  obtain ⟨hcodes, hkey⟩ := devCodes_of_ok hdev
  exact ⟨upRange_of_ok hup, upLen_bounds hw, fun _ hr hn => upLen_of_formatLen hw hr hn,
    fun m => ⟨ibLen_le hw m b, ibLen_of_isPoll hw m⟩, fun _ hn => ibLen_addressed_frameLen hw hn,
    fun _ hn => ibLen_broadcast_frameLen hw hn, fun _ hb => cvBase_le hw hb, hkey,
    (allDistinct_iff_nodup _).1 hrsp, hcodes⟩

/-! ### Wire units written out -/

/-- Settles O60: seven closed decodings, evaluated. -/
theorem writtenOutUnitsDecode : Obligations.WrittenOutUnitsDecode := by
  unfold Obligations.WrittenOutUnitsDecode
  decide

end Sys2Proof.Machine
end
